-- ==== Sys2Proof/Word.lean ====
section
/-!
DEFINITION. The widths the spec names (00_scope.md R8: a `uN` is an unsigned N-bit integer) and the names of
the eight registers RDREG can select (30_encoding.md R108, 46_readback.md R322).
-/
namespace Sys2Proof

/-- u8: a key byte, a salt character, an output character. -/
abbrev Byte := BitVec 8

/-- u32: a command word, the salt mask, one quarter-word of a half. -/
abbrev Word := BitVec 32

/-- u64: a bank entry, a subkey, a half, RDATA. -/
abbrev DWord := BitVec 64

/-- u28: one half (C or D) of the key scheduler's CD register (41_key_schedule.md R180). -/
abbrev KeyHalf := BitVec 28

/-- The registers RDREG reads, under the names of 30_encoding.md R108. -/
inductive RegSel where
  | status | l | r | mask | salt | kbuf | out0 | out1
deriving DecidableEq, Repr

end Sys2Proof
end

