-- ==== Sys2Proof/Syntax.lean ====
section
/-!
DEFINITION. The thirteen commands of CRYPTCORE-CMD (30_encoding.md R102), one constructor per row of the opcode
table, with the operands of R104.
-/
namespace Sys2Proof

/-- A command word after decoding. -/
inductive Instr where
  /-- NOP (45_digest_context.md R291). -/
  | nop
  /-- INIT (40_tables.md R158). -/
  | init
  /-- RESET (45_digest_context.md R292). -/
  | reset
  /-- UPDATE byte (45_digest_context.md R293). -/
  | update (byte : Byte)
  /-- SETSALT n, c0, c1 (42_salt.md R203). -/
  | setsalt (n : BitVec 2) (c0 c1 : Byte)
  /-- KSCHED (41_key_schedule.md R182). -/
  | ksched
  /-- SALTPERM (42_salt.md R205). -/
  | saltperm
  /-- FEISTEL (43_feistel.md R235). -/
  | feistel
  /-- OUTENC (44_output.md R265). -/
  | outenc
  /-- DIGEST (45_digest_context.md R294). -/
  | digest
  /-- RDBANK bank, index (46_readback.md R320). -/
  | rdbank (bank : BitVec 2) (index : BitVec 12)
  /-- RDKS index (46_readback.md R321). -/
  | rdks (index : BitVec 4)
  /-- RDREG sel (46_readback.md R322). -/
  | rdreg (sel : RegSel)
deriving DecidableEq, Repr

end Sys2Proof
end

