-- ==== Sys2Proof/WellFormed.lean ====
section
/-!
DEFINITION. Which instructions some command word stands for (30_encoding.md R104, R105): every one but SETSALT
with the reserved count 3.
-/
namespace Sys2Proof

/-- R105: "OP = 0x4 (SETSALT) and N = 3. The count value 3 is reserved." -/
def Instr.wellFormed : Instr → Bool
  | .setsalt n _ _ => n != 3
  | .nop | .init | .reset | .update _ | .ksched | .saltperm | .feistel | .outenc | .digest
  | .rdbank _ _ | .rdks _ | .rdreg _ => true

end Sys2Proof
end

