-- ==== Sys2Proof/Decode.lean ====
section
/-!
DEFINITION. The command word (30_encoding.md): its fields (R101), the opcode map and bit patterns (R102, R103), the
decoder, total on all 32-bit words (R105), and after it the encoder `enc` of R103.
-/
namespace Sys2Proof

/-! ## Fields (R101) -/

/-- OP, bits [31:28]. -/
def opField (w : Word) : BitVec 4 := w.extractLsb' 28 4
/-- N, bits [17:16]. -/
def nField (w : Word) : BitVec 2 := w.extractLsb' 16 2
/-- A, bits [15:8]. -/
def aField (w : Word) : Byte := w.extractLsb' 8 8
/-- B, bits [7:0]. -/
def bField (w : Word) : Byte := w.extractLsb' 0 8
/-- IDX, bits [11:0]. -/
def idxField (w : Word) : BitVec 12 := w.extractLsb' 0 12
/-- RDKS's subkey index, B[3:0]. -/
def ksField (w : Word) : BitVec 4 := w.extractLsb' 0 4
/-- RDREG's register select, B[2:0]. -/
def selField (w : Word) : BitVec 3 := w.extractLsb' 0 3

/-! ## The opcode map (R102) and the bit patterns (R103) -/

/-- The assigned opcodes. -/
inductive Opcode where
  | nop | init | reset | update | setsalt | ksched | saltperm | feistel | outenc | digest | rdbank | rdks | rdreg
deriving DecidableEq, Repr

/-- R102's OP column. -/
def Opcode.code : Opcode → BitVec 4
  | .nop => 0x0 | .init => 0x1 | .reset => 0x2 | .update => 0x3 | .setsalt => 0x4
  | .ksched => 0x5 | .saltperm => 0x6 | .feistel => 0x7 | .outenc => 0x8 | .digest => 0x9
  | .rdbank => 0xA | .rdks => 0xB | .rdreg => 0xC

/-- R102 read the other way; 0xD, 0xE and 0xF are reserved (R105). -/
def Opcode.ofCode (c : BitVec 4) : Option Opcode :=
  match c.toNat with
  | 0x0 => some .nop | 0x1 => some .init | 0x2 => some .reset | 0x3 => some .update | 0x4 => some .setsalt
  | 0x5 => some .ksched | 0x6 => some .saltperm | 0x7 => some .feistel | 0x8 => some .outenc | 0x9 => some .digest
  | 0xA => some .rdbank | 0xB => some .rdks | 0xC => some .rdreg
  | _ => none

/-- R103's match column. -/
def Opcode.matchBits : Opcode → Word
  | .nop => 0x00000000 | .init => 0x10000000 | .reset => 0x20000000 | .update => 0x30000000 | .setsalt => 0x40000000
  | .ksched => 0x50000000 | .saltperm => 0x60000000 | .feistel => 0x70000000 | .outenc => 0x80000000
  | .digest => 0x90000000 | .rdbank => 0xA0000000 | .rdks => 0xB0000000 | .rdreg => 0xC0000000

/-- R103's mask column. -/
def Opcode.maskBits : Opcode → Word
  | .nop | .init | .reset | .ksched | .saltperm | .feistel | .outenc | .digest => 0xFFFFFFFF
  | .update => 0xFFFFFF00
  | .setsalt => 0xFFFC0000
  | .rdbank => 0xFFFCF000
  | .rdks => 0xFFFFFFF0
  | .rdreg => 0xFFFFFFF8

/-! ## Decoding -/

/-- Why a word is illegal: the three cases of R105. -/
inductive DecodeError where
  /-- OP is 0xD, 0xE or 0xF. -/
  | reservedOpcode
  /-- A bit that the opcode's row of R103 fixes to 0 is 1. -/
  | reservedBits
  /-- SETSALT with N = 3. -/
  | reservedCount
deriving DecidableEq, Repr

/-- R108's numbering of the register selects. -/
def RegSel.ofCode (c : BitVec 3) : RegSel :=
  match c.toNat with
  | 0 => .status | 1 => .l | 2 => .r | 3 => .mask | 4 => .salt | 5 => .kbuf | 6 => .out0 | _ => .out1

/-- R104: the operands of a word whose opcode and fixed bits are right. -/
def operands (op : Opcode) (w : Word) : Except DecodeError Instr :=
  match op with
  | .nop => .ok .nop
  | .init => .ok .init
  | .reset => .ok .reset
  | .update => .ok (.update (bField w))
  | .setsalt => if nField w = 3 then .error .reservedCount else .ok (.setsalt (nField w) (aField w) (bField w))
  | .ksched => .ok .ksched
  | .saltperm => .ok .saltperm
  | .feistel => .ok .feistel
  | .outenc => .ok .outenc
  | .digest => .ok .digest
  | .rdbank => .ok (.rdbank (nField w) (idxField w))
  | .rdks => .ok (.rdks (ksField w))
  | .rdreg => .ok (.rdreg (RegSel.ofCode (selField w)))

/-- R105: every 32-bit word is illegal or selects exactly one row of R103. -/
def decode (w : Word) : Except DecodeError Instr :=
  match Opcode.ofCode (opField w) with
  | none => .error .reservedOpcode
  | some op => if w &&& op.maskBits = op.matchBits then operands op w else .error .reservedBits

/-- The decoder on a row of the opcode table: `w` numbered with bit 0 least significant, as the command word itself
is (R8, R100); bits from `nbits` up are 0. The word comes whole on the port, so no byte order enters. -/
def decodeTableWord (nbits w : Nat) : Option Instr :=
  (decode (BitVec.ofNat 32 (w % 2 ^ nbits))).toOption

/-! ## Encoding -/

/-- R103: `enc(OP, N, A, B) = OP << 28 | N << 16 | A << 8 | B`. -/
def enc (op : BitVec 4) (n : BitVec 2) (a b : Byte) : Word :=
  op.setWidth 32 <<< 28 ||| n.setWidth 32 <<< 16 ||| a.setWidth 32 <<< 8 ||| b.setWidth 32

/-- R108: 0 STATUS, 1 L, 2 R, 3 MASK, 4 SALT, 5 KBUF, 6 OUT0, 7 OUT1. -/
def RegSel.code : RegSel → BitVec 3
  | .status => 0 | .l => 1 | .r => 2 | .mask => 3 | .salt => 4 | .kbuf => 5 | .out0 => 6 | .out1 => 7

/-- The opcode of an instruction. -/
def Instr.opcode : Instr → Opcode
  | .nop => .nop | .init => .init | .reset => .reset | .update _ => .update | .setsalt _ _ _ => .setsalt
  | .ksched => .ksched | .saltperm => .saltperm | .feistel => .feistel | .outenc => .outenc | .digest => .digest
  | .rdbank _ _ => .rdbank | .rdks _ => .rdks | .rdreg _ => .rdreg

/-- The command word of an instruction (R103, R104); for RDBANK, A = IDX >> 8 and B = IDX & 0xFF. -/
def encode (i : Instr) : Word :=
  let op := i.opcode.code
  match i with
  | .nop | .init | .reset | .ksched | .saltperm | .feistel | .outenc | .digest => enc op 0 0 0
  | .update b => enc op 0 0 b
  | .setsalt n c0 c1 => enc op n c0 c1
  | .rdbank bank index => enc op bank ((index >>> 8).setWidth 8) (index.setWidth 8)
  | .rdks index => enc op 0 0 (index.setWidth 8)
  | .rdreg sel => enc op 0 0 (sel.code.setWidth 8)

end Sys2Proof
end

