-- ==== Sys2Proof/Config.lean ====
section
/-!
DEFINITION. The implementation parameters of 00_scope.md R5, all but NUM_ENGINES fixed numbers; and the one value the
spec leaves without a meaning.
-/
namespace Sys2Proof.Config

/-- KEY_BYTES (R5). -/
abbrev keyBytes : Nat := 8
/-- SALT_CHARS (R5). -/
abbrev saltChars : Nat := 2
/-- OUT_CHARS (R5). -/
abbrev outChars : Nat := 13
/-- SUBKEYS (R5). -/
abbrev subkeys : Nat := 16
/-- BANKS (R5). -/
abbrev banks : Nat := 4
/-- Entries of one bank: BANK_BYTES / 8 (R5, R71). -/
abbrev bankEntries : Nat := 4096
/-- BANK_BYTES (R5). -/
abbrev bankBytes : Nat := 0x8000
/-- BANK_SPACE: the size of the bank offset space in bytes (R5, R70). -/
abbrev bankSpace : Nat := 0x20000
/-- ITERATIONS (R5). -/
abbrev iterations : Nat := 25

/-- NUM_ENGINES is the one OPEN parameter (R5, D23): a constant with no body, so nothing can be proved of its
value but that it is at least 1. This one counts the engines beyond the first. -/
opaque enginesBeyondFirst : Nat

/-- NUM_ENGINES, at least 1 (R5, 60_exceptions.md R360). -/
def numEngines : Nat := enginesBeyondFirst + 1

/-- The 6-bit value a character outside the crypt alphabet would have, were it decoded: a free value, a constant with
no body. The spec gives it none (42_salt.md R200 says INVALID, 91_not_in_source.md N14 "Must not assume: any
particular garbage value"), and no run needs it: SETSALT refuses such a character. It stands only so that
SaltMask is total on states that no run reaches (SALTV = 1 over unvalidated bytes). -/
opaque invalidSaltValue : Byte → BitVec 6

end Sys2Proof.Config
end

