-- ==== Sys2Proof/Machine/State.lean ====
section
/-!
DEFINITION. The state of one engine (10_state.md R30), with the command words the port has not yet delivered; its
reset values (R49); and the reasons a step can stop.
-/
namespace Sys2Proof.Machine

/-- What the engine can be given between two commands: a command word on the command port (30_encoding.md R100)
or the reset input (70_reset_and_hazards.md R380). -/
inductive PortEvent where
  /-- The host's next command word. -/
  | command (w : Word)
  /-- The platform asserts the reset input. -/
  | hardwareReset
deriving DecidableEq, Repr

/-- One engine. The fields up to `rdata` are R30's list, in its order; nothing else persists between commands.
`port` is the model's own field: the command stream, "a parameter of the run" (00_scope.md R6), as far as it is not
yet taken, next event first. -/
structure State where
  /-- KBUF[0..7], the key buffer (R31). -/
  kbuf : Vector Byte 8
  /-- KCOUNT, the number of key bytes buffered (R32). -/
  kcount : BitVec 4
  /-- FIN, the Finalized state (R33). -/
  fin : Bool
  /-- SALT[0..1], the salt characters (R35). -/
  salt : Vector Byte 2
  /-- SALTV, SALT holds a validated salt (R35). -/
  saltv : Bool
  /-- MASK, the salt mask applied to the banks (R36). -/
  mask : Word
  /-- BANK[0..3][0..4095] (R37, 20_memory.md R70, R71): the bytes of the bank offset space that differ from what an
  unlisted offset reads as under `mask`, by rising offset (Machine/Memory.lean). -/
  bank : List Host.Cell
  /-- KS[0..15], the round subkeys (R38). -/
  ks : Vector DWord 16
  /-- L, the left half (R39). -/
  l : DWord
  /-- R, the right half (R39). -/
  r : DWord
  /-- OUT[0..12], the output string (R40). -/
  out : Vector Byte 13
  /-- OUTV, OUT holds a completed output (R40). -/
  outv : Bool
  /-- ERR, the result code of the last command (R42). -/
  err : BitVec 4
  /-- FATAL, the sticky fault bit (R43). -/
  fatal : Bool
  /-- RDATA, the read-data register (R44). -/
  rdata : DWord
  /-- The events the port has not yet delivered, next one first. -/
  port : List PortEvent
deriving DecidableEq, Repr

/-- The fault outcomes of a step: none. Every command ends in success or in an error code, "no trap, no hang, no
partial completion" (60_exceptions.md R340); the fatal error is the next state of R344, with FATAL = 1. -/
inductive Fault where
deriving DecidableEq, Repr

/-- The refusals of a step. -/
inductive Refusal where
  /-- Raised by an arm of `exec` whose instruction has no meaning yet: no arm of this model raises it. Safe. -/
  | notModelled (mnemonic : String)
deriving DecidableEq, Repr

/-- The state after hardware reset (R49, 70_reset_and_hazards.md R380), with nothing on the port (R381). -/
def State.reset : State where
  kbuf := #v[0, 0, 0, 0, 0, 0, 0, 0]
  kcount := 0
  fin := false
  salt := #v[0, 0]
  saltv := false
  mask := 0
  bank := []
  ks := #v[0, 0, 0, 0, 0, 0, 0, 0, 0, 0, 0, 0, 0, 0, 0, 0]
  l := 0
  r := 0
  out := #v[0, 0, 0, 0, 0, 0, 0, 0, 0, 0, 0, 0, 0]
  outv := false
  err := 0
  fatal := false
  rdata := 0
  port := []

end Sys2Proof.Machine
end

