-- ==== Sys2Proof/Machine/Tables.lean ====
section
/-!
DEFINITION. The constant store (20_memory.md R78): the DES constants and masks of 40_tables.md R140 to R149, and the
six tables built from them, R150 to R155. The tables are pure functions of constants (R157) and no part of State.
Every table is a list of entries, each entry given by the rule that builds it; a lookup reads the list. No
lookup of the machine leaves a table's range, so the value a lookup answers there is never used.
-/
namespace Sys2Proof.Machine

/-! ## Constants -/

/-- PC1, permuted choice 1 (R140). -/
def pc1 : List Nat :=
  [57, 49, 41, 33, 25, 17,  9,
    1, 58, 50, 42, 34, 26, 18,
   10,  2, 59, 51, 43, 35, 27,
   19, 11,  3, 60, 52, 44, 36] ++
  [63, 55, 47, 39, 31, 23, 15,
    7, 62, 54, 46, 38, 30, 22,
   14,  6, 61, 53, 45, 37, 29,
   21, 13,  5, 28, 20, 12,  4]

/-- PC2, permuted choice 2 (R141). -/
def pc2 : List Nat :=
  [14, 17, 11, 24,  1,  5,
    3, 28, 15,  6, 21, 10,
   23, 19, 12,  4, 26,  8,
   16,  7, 27, 20, 13,  2] ++
  [41, 52, 31, 37, 47, 55,
   30, 40, 51, 45, 33, 48,
   44, 49, 39, 56, 34, 53,
   46, 42, 50, 36, 29, 32]

/-- ROTS, the rotation counts of the key schedule (R142). -/
def rots : List Nat := [1, 1, 2, 2, 2, 2, 2, 2, 1, 2, 2, 2, 2, 2, 2, 1]

/-- ESEL, the DES expansion E, unsalted (R143). -/
def esel : List Nat :=
  [32,  1,  2,  3,  4,  5,
    4,  5,  6,  7,  8,  9,
    8,  9, 10, 11, 12, 13,
   12, 13, 14, 15, 16, 17] ++
  [16, 17, 18, 19, 20, 21,
   20, 21, 22, 23, 24, 25,
   24, 25, 26, 27, 28, 29,
   28, 29, 30, 31, 32,  1]

/-- PERM32, the DES permutation P (R144). -/
def perm32 : List Nat :=
  [16,  7, 20, 21, 29, 12, 28, 17,
    1, 15, 23, 26,  5, 18, 31, 10,
    2,  8, 24, 14, 32, 27,  3,  9,
   19, 13, 30,  6, 22, 11,  4, 25]

/-- SBOX, the S-boxes S1 to S8, four rows of sixteen each (R145). -/
def sbox : List (List (List Nat)) :=
  [[[14,  4, 13,  1,  2, 15, 11,  8,  3, 10,  6, 12,  5,  9,  0,  7],
    [ 0, 15,  7,  4, 14,  2, 13,  1, 10,  6, 12, 11,  9,  5,  3,  8],
    [ 4,  1, 14,  8, 13,  6,  2, 11, 15, 12,  9,  7,  3, 10,  5,  0],
    [15, 12,  8,  2,  4,  9,  1,  7,  5, 11,  3, 14, 10,  0,  6, 13]],
   [[15,  1,  8, 14,  6, 11,  3,  4,  9,  7,  2, 13, 12,  0,  5, 10],
    [ 3, 13,  4,  7, 15,  2,  8, 14, 12,  0,  1, 10,  6,  9, 11,  5],
    [ 0, 14,  7, 11, 10,  4, 13,  1,  5,  8, 12,  6,  9,  3,  2, 15],
    [13,  8, 10,  1,  3, 15,  4,  2, 11,  6,  7, 12,  0,  5, 14,  9]]] ++
  [[[10,  0,  9, 14,  6,  3, 15,  5,  1, 13, 12,  7, 11,  4,  2,  8],
    [13,  7,  0,  9,  3,  4,  6, 10,  2,  8,  5, 14, 12, 11, 15,  1],
    [13,  6,  4,  9,  8, 15,  3,  0, 11,  1,  2, 12,  5, 10, 14,  7],
    [ 1, 10, 13,  0,  6,  9,  8,  7,  4, 15, 14,  3, 11,  5,  2, 12]],
   [[ 7, 13, 14,  3,  0,  6,  9, 10,  1,  2,  8,  5, 11, 12,  4, 15],
    [13,  8, 11,  5,  6, 15,  0,  3,  4,  7,  2, 12,  1, 10, 14,  9],
    [10,  6,  9,  0, 12, 11,  7, 13, 15,  1,  3, 14,  5,  2,  8,  4],
    [ 3, 15,  0,  6, 10,  1, 13,  8,  9,  4,  5, 11, 12,  7,  2, 14]]] ++
  [[[ 2, 12,  4,  1,  7, 10, 11,  6,  8,  5,  3, 15, 13,  0, 14,  9],
    [14, 11,  2, 12,  4,  7, 13,  1,  5,  0, 15, 10,  3,  9,  8,  6],
    [ 4,  2,  1, 11, 10, 13,  7,  8, 15,  9, 12,  5,  6,  3,  0, 14],
    [11,  8, 12,  7,  1, 14,  2, 13,  6, 15,  0,  9, 10,  4,  5,  3]],
   [[12,  1, 10, 15,  9,  2,  6,  8,  0, 13,  3,  4, 14,  7,  5, 11],
    [10, 15,  4,  2,  7, 12,  9,  5,  6,  1, 13, 14,  0, 11,  3,  8],
    [ 9, 14, 15,  5,  2,  8, 12,  3,  7,  0,  4, 10,  1, 13, 11,  6],
    [ 4,  3,  2, 12,  9,  5, 15, 10, 11, 14,  1,  7,  6,  0,  8, 13]]] ++
  [[[ 4, 11,  2, 14, 15,  0,  8, 13,  3, 12,  9,  7,  5, 10,  6,  1],
    [13,  0, 11,  7,  4,  9,  1, 10, 14,  3,  5, 12,  2, 15,  8,  6],
    [ 1,  4, 11, 13, 12,  3,  7, 14, 10, 15,  6,  8,  0,  5,  9,  2],
    [ 6, 11, 13,  8,  1,  4, 10,  7,  9,  5,  0, 15, 14,  2,  3, 12]],
   [[13,  2,  8,  4,  6, 15, 11,  1, 10,  9,  3, 14,  5,  0, 12,  7],
    [ 1, 15, 13,  8, 10,  3,  7,  4, 12,  5,  6, 11,  0, 14,  9,  2],
    [ 7, 11,  4,  1,  9, 12, 14,  2,  0,  6, 10, 13, 15,  3,  5,  8],
    [ 2,  1, 14,  7,  4, 10,  8, 13, 15, 12,  9,  0,  3,  5,  6, 11]]]

/-- FINAL_PERM, the DES final permutation (R146). -/
def finalPerm : List Nat :=
  [40,  8, 48, 16, 56, 24, 64, 32,
   39,  7, 47, 15, 55, 23, 63, 31,
   38,  6, 46, 14, 54, 22, 62, 30,
   37,  5, 45, 13, 53, 21, 61, 29] ++
  [36,  4, 44, 12, 52, 20, 60, 28,
   35,  3, 43, 11, 51, 19, 59, 27,
   34,  2, 42, 10, 50, 18, 58, 26,
   33,  1, 41,  9, 49, 17, 57, 25]

/-- Entry `i` (0-based) of a table of numbers. -/
def entry (t : List Nat) (i : Nat) : Nat := t.getD i 0

/-- s_lookup(t, x) (R147): the outer bits x[5], x[0] select the row, x[4:1] the column. -/
def sLookup (t : Nat) (x : BitVec 6) : BitVec 4 :=
  BitVec.ofNat 4 (((sbox.getD t []).getD (x.extractLsb' 5 1 ++ x.extractLsb' 0 1).toNat []).getD
    (x.extractLsb' 1 4).toNat 0)

/-- BYTEMASK[j], j in 0..7 (R148). -/
def byteMask (j : Nat) : Byte := 0x80#8 >>> j

/-- LONGMASK[i], i in 0..31 (R148). -/
def longMask (i : Nat) : Word := 1#32 <<< (31 - i)

/-- BITMASK[j], j in 0..23 (R148): bit 30-j for j in 0..11 and bit 26-j for j in 12..23. -/
def bitMask (j : Nat) : Word := if j < 12 then 1#32 <<< (30 - j) else 1#32 <<< (26 - j)

/-- KEY_MARKER (R149). -/
def keyMarker : DWord := 0x0000800000008000

/-! ## Building blocks of the table rules -/

/-- A table of `n` entries. -/
def tabulate {α : Type} (n : Nat) (f : Nat → α) : List α := (List.range n).map f

/-- The inner loop of R150 to R154 for one entry: of the constant's bits that feed this entry's table row, OR in the
output mask of each whose input mask the index hits. -/
def scatter {w : Nat} (bits : List Nat) (hit : Nat → Bool) (out : Nat → BitVec w) : BitVec w :=
  bits.foldl (fun acc bit => if hit bit then acc ||| out bit else acc) 0

/-! ## PC1T (R150) -/

/-- The `bit`s of R150's loop whose cf lies in key byte `k` and that fall in half `h`. -/
def pc1Bits (k h : Nat) : List Nat :=
  (List.range 56).filter fun bit => (entry pc1 bit - 1) / 8 = k ∧ bit / 28 = h

/-- PC1T[k][h][j] (R150). -/
def pc1Entry (k h j : Nat) : Word :=
  scatter (pc1Bits k h) (fun bit => BitVec.ofNat 8 j &&& byteMask ((entry pc1 bit - 1) % 8 + 1) != 0)
    (fun bit => longMask (bit % 28 + 4))

/-- PC1T, [8][2][128] (R78, R150). -/
def pc1Table : List (List (List Word)) :=
  tabulate 8 fun k => tabulate 2 fun h => tabulate 128 fun j => pc1Entry k h j

/-- The lookup PC1T[k][h][j]. -/
def pc1t (k h : Nat) (j : BitVec 7) : Word := ((pc1Table.getD k []).getD h []).getD j.toNat 0

/-! ## PC2T (R151) -/

/-- The `bit`s of R151's loop whose cf lies in septet `q`. -/
def pc2Bits (q : Nat) : List Nat := (List.range 48).filter fun bit => (entry pc2 bit - 1) / 7 = q

/-- PC2T[q][j] (R151). -/
def pc2Entry (q j : Nat) : Word :=
  scatter (pc2Bits q) (fun bit => BitVec.ofNat 8 j &&& byteMask ((entry pc2 bit - 1) % 7 + 1) != 0)
    (fun bit => bitMask (bit % 24))

/-- PC2T, [8][128] (R78, R151). -/
def pc2Table : List (List Word) := tabulate 8 fun q => tabulate 128 fun j => pc2Entry q j

/-- The lookup PC2T[q][j]. -/
def pc2t (q : Nat) (j : BitVec 7) : Word := (pc2Table.getD q []).getD j.toNat 0

/-! ## EPT (R152) -/

/-- R152's cf: the 0-based sbox-output bit that feeds E bit `bit`. -/
def eptSource (bit : Nat) : Nat := entry perm32 (entry esel bit - 1) - 1

/-- The `bit`s of R152's loop whose cf lies in byte `y` and that fall in quarter-word `w`. -/
def eptBits (y w : Nat) : List Nat := (List.range 48).filter fun bit => eptSource bit / 8 = y ∧ bit / 24 = w

/-- EPT[y][j][w] (R152). -/
def eptEntry (y j w : Nat) : Word :=
  scatter (eptBits y w) (fun bit => BitVec.ofNat 8 j &&& byteMask (eptSource bit % 8) != 0)
    (fun bit => bitMask (bit % 24))

/-- EPT, [4][256][2] (R78, R152). -/
def eptTable : List (List (List Word)) :=
  tabulate 4 fun y => tabulate 256 fun j => tabulate 2 fun w => eptEntry y j w

/-- The lookup EPT[y][j][w]. -/
def ept (y : Nat) (j : Byte) (w : Nat) : Word := ((eptTable.getD y []).getD j.toNat []).getD w 0

/-! ## E_INV (R153) -/

/-- E_INV[h] (R153): the loop runs `bit` from 47 down to 0, a later write replacing an earlier one. -/
def eInvEntry (h : Nat) : Nat :=
  (List.range 48).reverse.foldl
    (fun v bit => if entry esel bit - 1 = h then bit else if entry esel bit - 1 + 32 = h then bit + 48 else v) 0

/-- E_INV, [64] (R78, R153). -/
def eInvTable : List Nat := tabulate 64 eInvEntry

/-- The lookup E_INV[h]. -/
def eInv (h : Nat) : Nat := eInvTable.getD h 0

/-! ## EFP (R154) -/

/-- R154's cfe: the 0-based E position that final-permutation output bit `bit` is read from. -/
def efpSource (bit : Nat) : Nat := eInv (entry finalPerm bit - 1)

/-- The `bit`s of R154's loop whose cfe lies in group `g` and that fall in output word `o`. -/
def efpBits (g o : Nat) : List Nat := (List.range 64).filter fun bit => efpSource bit / 6 = g ∧ bit / 32 = o

/-- EFP[g][v][o] (R154). -/
def efpEntry (g v o : Nat) : Word :=
  scatter (efpBits g o) (fun bit => BitVec.ofNat 32 v &&& longMask (efpSource bit % 6 + 26) != 0)
    (fun bit => longMask (bit % 32))

/-- EFP, [16][64][2] (R78, R154). -/
def efpTable : List (List (List Word)) :=
  tabulate 16 fun g => tabulate 64 fun v => tabulate 2 fun o => efpEntry g v o

/-- The lookup EFP[g][v][o]. -/
def efp (g : Nat) (v : BitVec 6) (o : Nat) : Word := ((efpTable.getD g []).getD v.toNat []).getD o 0

/-! ## BASE (R155) -/

/-- R155's to-permute word: the two 4-bit outputs in byte `sg`. -/
def toPermute (sg : Nat) (s1 s2 : BitVec 4) : Word := (s1 ++ s2).setWidth 32 <<< (24 - 8 * sg)

/-- R155's inner loop: the four EPT lookups of a to-permute word. -/
def expandPermute (tp : Word) : DWord :=
  (List.range 4).foldl
    (fun v y => v ||| (ept y (tp.extractLsb' (24 - 8 * y) 8) 0 ++ ept y (tp.extractLsb' (24 - 8 * y) 8) 1)) 0

/-- BASE[sg][(j1 << 6) | j2] (R155). -/
def baseEntry (sg j1 j2 : Nat) : DWord :=
  expandPermute (toPermute sg (sLookup (2 * sg) (BitVec.ofNat 6 j1)) (sLookup (2 * sg + 1) (BitVec.ofNat 6 j2)))

/-- BASE, [4][64][64], the second and third index making up the entry index `(j1 << 6) | j2` (R78, R155). -/
def baseTable : List (List (List DWord)) :=
  tabulate 4 fun sg => tabulate 64 fun j1 => tabulate 64 fun j2 => baseEntry sg j1 j2

/-- The lookup BASE[b][i], i in 0..4095. -/
def base (b i : Nat) : DWord := ((baseTable.getD b []).getD (i / 64) []).getD (i % 64) 0

end Sys2Proof.Machine
end

