-- ==== Sys2Proof/Machine/Memory.lean ====
section
/-!
DEFINITION. The bank memory (20_memory.md): the swap SHUF1 (42_salt.md R202), what an unlisted byte reads as, the
list of cells in canonical form, and the operations on it. `State.bank` lists the bytes of the bank offset space
whose contents differ from SHUF(BASE, MASK); 10_state.md R37 lets a model represent the banks by MASK, and the
list holds whatever else the banks may contain. Byte offset 8*e + k is byte k of entry e, the most significant
byte first (DESIGN CHOICE, log entry 5: R72 leaves the storage order open and nothing observes it).
-/
namespace Sys2Proof.Machine

/-- SHUF1(x, m) (42_salt.md R202): exchange bit p of the two quarter-words for every p with m[p] = 1.
`t ++ t` is `(zext_64(t) << 32) | zext_64(t)`. -/
def shuf1 (x : DWord) (m : Word) : DWord :=
  let t : Word := (x.extractLsb' 32 32 ^^^ x.extractLsb' 0 32) &&& m
  x ^^^ (t ++ t)

/-- Byte `k` (0 first, most significant) of an entry. -/
def byteOf (x : DWord) (k : Nat) : Byte := x.extractLsb' (8 * (7 - k)) 8

/-- The entry with byte `k` replaced. -/
def setByte (x : DWord) (k : Nat) (v : Byte) : DWord :=
  x &&& ~~~(0xFF#64 <<< (8 * (7 - k))) ||| v.setWidth 64 <<< (8 * (7 - k))

/-! ## Cells -/

/-- What entry `e` (0..16383, entry e % 4096 of bank e / 4096, R71) holds when none of its bytes is listed:
SHUF1(BASE[b][i], MASK) (R37). With MASK = 0, as at reset, that is BASE[b][i] (R49). -/
def unlistedEntry (mask : Word) (e : Nat) : DWord := shuf1 (base (e / 4096) (e % 4096)) mask

/-- What an unlisted byte offset reads as. -/
def unlistedByte (mask : Word) (a : Nat) : Byte := byteOf (unlistedEntry mask (a / 8)) (a % 8)

/-- The canonical form: offsets strictly rising and inside the bank offset space (R70), no cell equal to what its
offset reads as unlisted. -/
abbrev memoryWf (mask : Word) (m : List Host.Cell) : Prop :=
  m.Pairwise (fun c d => c.1 < d.1) ∧ ∀ c ∈ m, c.1 < Config.bankSpace ∧ c.2 ≠ unlistedByte mask c.1

/-- The byte at offset `a`. -/
def readByte (mask : Word) (m : List Host.Cell) (a : Nat) : Byte := (m.lookup a).getD (unlistedByte mask a)

/-- The u64 value of entry `e`: its listed bytes over what it holds unlisted. -/
def readEntry (mask : Word) (m : List Host.Cell) (e : Nat) : DWord :=
  (m.filter fun c => c.1 / 8 = e).foldr (fun c x => setByte x (c.1 % 8) c.2) (unlistedEntry mask e)

/-- The cells of entry `e` when it holds `x`. -/
def entryCells (mask : Word) (e : Nat) (x : DWord) : List Host.Cell :=
  (List.range 8).filterMap fun k =>
    if byteOf x k = unlistedByte mask (8 * e + k) then none else some (8 * e + k, byteOf x k)

/-- Entry `e` <- `x`. -/
def writeEntry (mask : Word) (m : List Host.Cell) (e : Nat) (x : DWord) : List Host.Cell :=
  m.filter (fun c => c.1 < 8 * e) ++ entryCells mask e x ++ m.filter (fun c => 8 * e + 8 ≤ c.1)

/-- The cells after every entry is rewritten by SHUF1 with `delta` and the mask becomes `mask ^^^ delta`. An entry
with no listed byte held SHUF1(BASE, mask), so it becomes what it reads as unlisted under the new mask
(R202: SHUF1(SHUF1(x, a), b) = SHUF1(x, a ^ b)); each entry with a listed byte is written. -/
def swapCells (mask : Word) (m : List Host.Cell) (delta : Word) : List Host.Cell :=
  (m.map fun c => c.1 / 8).foldl
    (fun m' e => writeEntry (mask ^^^ delta) m' e (shuf1 (readEntry mask m e) delta)) []

/-! ## The banks of a state -/

/-- The byte at offset `a` of the bank offset space (R70). -/
def bankByte (s : State) (a : Nat) : Byte := readByte s.mask s.bank a

/-- BANK[b][i] (R71). -/
def bankEntry (s : State) (b i : Nat) : DWord := readEntry s.mask s.bank (4096 * b + i)

/-- BANK[b][i] <- v (00_scope.md R11). -/
def setBankEntry (s : State) (b i : Nat) (v : DWord) : State :=
  { s with bank := writeEntry s.mask s.bank (4096 * b + i) v }

/-- `for b in 0..3: for i in 0..4095: BANK[b][i] <- SHUF1(BANK[b][i], delta)`, and MASK <- MASK ^ delta
(42_salt.md R204; with delta = MASK, 45_digest_context.md R292). -/
def swapBanks (s : State) (delta : Word) : State :=
  { s with bank := swapCells s.mask s.bank delta, mask := s.mask ^^^ delta }

/-- `for b in 0..3: for i in 0..4095: BANK[b][i] <- BASE[b][i]`, and MASK <- 0 (40_tables.md R158). -/
def initBanks (s : State) : State := { s with bank := [], mask := 0 }

/-! ## MemRead and MemWrite (R74) -/

/-- R74's value-range dispatch. -/
def bankOf (off : Nat) : Option Nat :=
  if off < 0x08000 then some 0
  else if off < 0x10000 then some 1
  else if off < 0x18000 then some 2
  else if off < 0x20000 then some 3
  else none

/-- The bank and entry an offset selects; none is R73's and R74's TableOffsetInvariantViolation. -/
def locate (off : Nat) : Option (Nat × Nat) :=
  match bankOf off with
  | none => none
  | some b => let rel := off - 0x8000 * b; if rel % 8 ≠ 0 then none else some (b, rel / 8)

/-- MemRead(off, 8) (R74). None: raise TableOffsetInvariantViolation. -/
def memRead (s : State) (off : Nat) : Option DWord :=
  match locate off with
  | none => none
  | some (b, i) => some (bankEntry s b i)

/-- MemWrite(off, 8, v), "the matching write" (00_scope.md R11). No command uses it: "Only the SaltPermuter and the
initializer write banks, and they use `BANK[b][i] <-` directly". -/
def memWrite (s : State) (off : Nat) (v : DWord) : Option State :=
  match locate off with
  | none => none
  | some (b, i) => some (setBankEntry s b i v)

end Sys2Proof.Machine
end

