-- ==== Sys2Proof/Machine/Flags.lean ====
section
/-!
DEFINITION. The result codes (60_exceptions.md R341) and the views DSTATE and STATUS (10_state.md R34, R41).
-/
namespace Sys2Proof.Machine

/-- The errors of R341; codes 7 to 15 are never produced. -/
inductive ErrorCode where
  | ok | invalidSalt | shortSalt | tableOffsetInvariantViolation | illegalCommand | sequenceError | halted
deriving DecidableEq, Repr

/-- R341's code column. -/
def ErrorCode.code : ErrorCode → BitVec 4
  | .ok => 0
  | .invalidSalt => 1
  | .shortSalt => 2
  | .tableOffsetInvariantViolation => 3
  | .illegalCommand => 4
  | .sequenceError => 5
  | .halted => 6

/-- The states of the digest context (10_state.md R34, 45_digest_context.md R290). -/
inductive DState where
  | empty | accumulating | finalized
deriving DecidableEq, Repr

/-- R34's numbering; the value 3 is never produced. -/
def DState.code : DState → BitVec 2
  | .empty => 0
  | .accumulating => 1
  | .finalized => 2

/-- DSTATE (R34). -/
def dstate (s : State) : DState :=
  if s.fin then .finalized else if s.kcount = 0 then .empty else .accumulating

/-- STATUS (R41): `zext_32(FATAL ++ ERR ++ OUTV ++ SALTV ++ KCOUNT ++ DSTATE)`. -/
def status (s : State) : Word :=
  (BitVec.ofBool s.fatal ++ s.err ++ BitVec.ofBool s.outv ++ BitVec.ofBool s.saltv ++ s.kcount
    ++ (dstate s).code).setWidth 32

end Sys2Proof.Machine
end

