-- ==== Sys2Proof/Machine/Operands.lean ====
section
/-!
DEFINITION. The operand forms: the key byte of UPDATE, the register selects of RDREG (46_readback.md R322), a subkey
index, and the byte packing of RDATA (20_memory.md R72: the first byte at the most significant end).
-/
namespace Sys2Proof.Machine

/-- The key byte UPDATE buffers (45_digest_context.md R293): `b & 0x7F`. -/
def keyByte (b : Byte) : Byte := b &&& 0x7F

/-- KS[index] (46_readback.md R321). -/
def subkeyAt (s : State) (index : BitVec 4) : DWord := s.ks[index.toNat]'(index.isLt)

/-- KBUF[0] ++ ... ++ KBUF[7] (R322). -/
def kbufView (s : State) : DWord :=
  s.kbuf[0] ++ s.kbuf[1] ++ s.kbuf[2] ++ s.kbuf[3] ++ s.kbuf[4] ++ s.kbuf[5] ++ s.kbuf[6] ++ s.kbuf[7]

/-- OUT[0] ++ ... ++ OUT[7] (R322). -/
def out0View (s : State) : DWord :=
  s.out[0] ++ s.out[1] ++ s.out[2] ++ s.out[3] ++ s.out[4] ++ s.out[5] ++ s.out[6] ++ s.out[7]

/-- OUT[8] ++ ... ++ OUT[12] ++ 0x000000 (R322). -/
def out1View (s : State) : DWord :=
  s.out[8] ++ s.out[9] ++ s.out[10] ++ s.out[11] ++ s.out[12] ++ 0x000000#24

/-- REGVIEW(sel) (R322). -/
def regView (s : State) : RegSel → DWord
  | .status => (status s).setWidth 64
  | .l => s.l
  | .r => s.r
  | .mask => s.mask.setWidth 64
  | .salt => (s.salt[0] ++ s.salt[1]).setWidth 64
  | .kbuf => kbufView s
  | .out0 => out0View s
  | .out1 => out1View s

end Sys2Proof.Machine
end

