-- ==== Sys2Proof/Machine/Ops.lean ====
section
/-!
DEFINITION. The shared operations: how a command ends (10_state.md R42, 60_exceptions.md R340, R344, R348, R349) and
how the port delivers (00_scope.md R6, 70_reset_and_hazards.md R380, R381). Raising an error is the engine's whole
exception mechanism: there is no trap entry and no return from one (60_exceptions.md R352, R353).
-/
namespace Sys2Proof.Machine

/-- `raise E` for every error but TableOffsetInvariantViolation (60_exceptions.md R348): exactly one effect,
ERR <- code. -/
def raise (e : ErrorCode) (s : State) : State := { s with err := e.code }

/-- A command's last effect on success: ERR <- 0 (10_state.md R42, 60_exceptions.md R351). -/
def succeed (s : State) : State := { s with err := ErrorCode.ok.code }

/-- TableOffsetInvariantViolation (60_exceptions.md R344): OUTV <- 0, FATAL <- 1, ERR <- 3, and the rest as it stands
when MemRead faults. -/
def raiseFatal (s : State) : State :=
  { s with outv := false, fatal := true, err := ErrorCode.tableOffsetInvariantViolation.code }

/-- The check of every command but NOP and the reads (60_exceptions.md R349): while FATAL = 1, Halted. -/
def unlessHalted (s : State) (done : State) : State := if s.fatal then raise .halted s else done

/-- An illegal command word (60_exceptions.md R346). -/
def illegalCommand (s : State) : State := raise .illegalCommand s

/-- RDATA <- v, for the read commands (10_state.md R44). -/
def setRdata (s : State) (v : DWord) : State := { s with rdata := v }

/-- Hardware reset (70_reset_and_hazards.md R380): every register at its reset value, BANK = BASE. What the port
has not yet delivered is no register and stays. -/
def hardwareReset (s : State) : State := { State.reset with port := s.port }

/-- The host puts an event on the port, ahead of those waiting. -/
def pushPort (s : State) (ev : PortEvent) : State := { s with port := ev :: s.port }

/-- The host queues an event behind those waiting. -/
def queuePort (s : State) (ev : PortEvent) : State := { s with port := s.port ++ [ev] }

end Sys2Proof.Machine
end

