-- ==== Sys2Proof/Machine/Feistel.lean ====
section
/-!
DEFINITION. The FeistelEngine and FEISTEL (43_feistel.md R230 to R235). A `none` below is a MemRead that raised
TableOffsetInvariantViolation (20_memory.md R74): the procedure stops at once.
-/
namespace Sys2Proof.Machine

/-- F(s) (R230): the XOR of four bank reads, one per 16-bit chunk of the index word, at the bases of R233. -/
def feistelF (s : State) (x : DWord) : Option DWord :=
  match memRead s (0x10000 + (x.extractLsb' 0 16).toNat), memRead s (0x10000 + (x.extractLsb' 16 16).toNat),
    memRead s (x.extractLsb' 32 16).toNat, memRead s (x.extractLsb' 48 16).toNat with
  | some a, some b, some c, some d => some (a ^^^ b ^^^ c ^^^ d)
  | _, _, _, _ => none

/-- One sub-step (R231), which consumes two subkeys; the second half uses the l just updated. -/
def subStep (s : State) (k0 k1 : DWord) (lr : DWord × DWord) : Option (DWord × DWord) :=
  match feistelF s (k0 ^^^ lr.2) with
  | none => none
  | some f =>
    match feistelF s (k1 ^^^ (lr.1 ^^^ f)) with
    | none => none
    | some g => some (lr.1 ^^^ f, lr.2 ^^^ g)

/-- Sub-steps along the round-key stream, two subkeys each (R231). -/
def subSteps (s : State) : List DWord → DWord × DWord → Option (DWord × DWord)
  | k0 :: k1 :: rest, lr =>
    match subStep s k0 k1 lr with
    | none => none
    | some lr' => subSteps s rest lr'
  | _, lr => some lr

/-- One iteration (R232): the eight sub-steps on KS[0], KS[1], ..., KS[15], then the exchange. -/
def iteration (s : State) (lr : DWord × DWord) : Option (DWord × DWord) :=
  match subSteps s s.ks.toList lr with
  | none => none
  | some lr' => some (lr'.2, lr'.1)

/-- `n` iterations (R234). -/
def iterations (s : State) : Nat → DWord × DWord → Option (DWord × DWord)
  | 0, lr => some lr
  | n + 1, lr =>
    match iteration s lr with
    | none => none
    | some lr' => iterations s n lr'

/-- RunFeistel (R234): 25 iterations from l = r = 0; the new (L, R). -/
def runFeistel (s : State) : Option (DWord × DWord) := iterations s Config.iterations (0, 0)

/-- L <- l; R <- r (R234). -/
def setHalves (s : State) (lr : DWord × DWord) : State := { s with l := lr.1, r := lr.2 }

/-- FEISTEL (R235). -/
def execFeistel (s : State) : Host.Outcome State Fault Refusal :=
  .next (unlessHalted s (match runFeistel s with
    | some lr => succeed (setHalves s lr)
    | none => raiseFatal s))

end Sys2Proof.Machine
end

