-- ==== Sys2Proof/Machine/KeySchedule.lean ====
section
/-!
DEFINITION. The KeyScheduler and KSCHED (41_key_schedule.md R180 to R182, R184).
-/
namespace Sys2Proof.Machine

/-- `KBUF[k] & 0x7F` as the 7-bit index of R180. -/
def septetOf (b : Byte) : BitVec 7 := b.setWidth 7

/-- The PC1 step for half `h` (0 = C, 1 = D): the OR of eight lookups (R180). -/
def pc1Half (kbuf : Vector Byte 8) (h : Nat) : KeyHalf :=
  (pc1t 0 h (septetOf kbuf[0]) ||| pc1t 1 h (septetOf kbuf[1]) ||| pc1t 2 h (septetOf kbuf[2])
    ||| pc1t 3 h (septetOf kbuf[3]) ||| pc1t 4 h (septetOf kbuf[4]) ||| pc1t 5 h (septetOf kbuf[5])
    ||| pc1t 6 h (septetOf kbuf[6]) ||| pc1t 7 h (septetOf kbuf[7])).setWidth 28

/-- rotl28 (00_scope.md R10, R184): the rotation within 28 bits. -/
def rotl28 (v : KeyHalf) (n : Nat) : KeyHalf := v <<< n ||| v >>> (28 - n)

/-- One round's rotation of both halves (R181). -/
def rotateHalves (cd : KeyHalf × KeyHalf) (n : Nat) : KeyHalf × KeyHalf := (rotl28 cd.1 n, rotl28 cd.2 n)

/-- C and D after the rotations of rounds 0 to `i` (R181). -/
def halvesAt (cd : KeyHalf × KeyHalf) (i : Nat) : KeyHalf × KeyHalf := (rots.take (i + 1)).foldl rotateHalves cd

/-- The quarter-word of one half: PC2T tables `q` to `q + 3` on its four septets (R181). -/
def pc2Word (q : Nat) (c : KeyHalf) : Word :=
  pc2t q (c.extractLsb' 21 7) ||| pc2t (q + 1) (c.extractLsb' 14 7) ||| pc2t (q + 2) (c.extractLsb' 7 7)
    ||| pc2t (q + 3) (c.extractLsb' 0 7)

/-- The subkey of one round (R181): hi from C, lo from D, and KEY_MARKER. -/
def subkeyOf (cd : KeyHalf × KeyHalf) : DWord := (pc2Word 0 cd.1 ++ pc2Word 4 cd.2) ||| keyMarker

/-- KS[0..15] of a key (R180, R181). -/
def scheduleOf (kbuf : Vector Byte 8) : Vector DWord 16 :=
  Vector.ofFn fun i : Fin 16 => subkeyOf (halvesAt (pc1Half kbuf 0, pc1Half kbuf 1) i.val)

/-- R180 and R181 on KBUF: writes KS. -/
def runKeyScheduler (s : State) : State := { s with ks := scheduleOf s.kbuf }

/-- KSCHED (R182). -/
def execKsched (s : State) : Host.Outcome State Fault Refusal :=
  .next (unlessHalted s (succeed (runKeyScheduler s)))

end Sys2Proof.Machine
end

