-- ==== Sys2Proof/Machine/Output.lean ====
section
/-!
DEFINITION. The OutputEncoder and OUTENC (44_output.md R260 to R265).
-/
namespace Sys2Proof.Machine

/-- The un-salt step on one half (R260): the two quarter-words with the bit pairs of the mask swapped back. -/
def unsalt (mask : Word) (half : DWord) : Word × Word :=
  let h1 : Word := half.extractLsb' 32 32
  let h2 : Word := half.extractLsb' 0 32
  let x := (h1 ^^^ h2) &&& mask
  (h1 ^^^ x, h2 ^^^ x)

/-- The four 6-bit groups of a quarter-word after the shift by 3 (R261). -/
def sixBitGroups (quarter : Word) : List (BitVec 6) :=
  let q := quarter >>> 3
  [q.extractLsb' 22 6, q.extractLsb' 16 6, q.extractLsb' 6 6, q.extractLsb' 0 6]

/-- G[0..15] (R261). -/
def outputGroups (mask : Word) (l r : DWord) : List (BitVec 6) :=
  sixBitGroups (unsalt mask l).1 ++ sixBitGroups (unsalt mask l).2
    ++ sixBitGroups (unsalt mask r).1 ++ sixBitGroups (unsalt mask r).2

/-- Output word `o` (0 = v1, 1 = v2): the OR of the sixteen lookups (R262). -/
def finalWord (groups : List (BitVec 6)) (o : Nat) : Word :=
  groups.zipIdx.foldl (fun v g => v ||| efp g.2 g.1 o) 0

/-- v1 ++ v2 (R262). -/
def finalBlock (mask : Word) (l r : DWord) : DWord :=
  finalWord (outputGroups mask l r) 0 ++ finalWord (outputGroups mask l r) 1

/-- ALPHA(v) (R264). -/
def alpha (v : BitVec 6) : Byte :=
  if v ≤ 11 then v.setWidth 8 + 0x2E else if v ≤ 37 then v.setWidth 8 + 0x35 else v.setWidth 8 + 0x3B

/-- ALPHA of group `i` (0..10) of the 66-bit string S (R263). -/
def outputChar (block : DWord) (i : Nat) : Byte :=
  let v1 : Word := block.extractLsb' 32 32
  let v2 : Word := block.extractLsb' 0 32
  let str : BitVec 66 := v1.setWidth 66 <<< 34 ||| v2.setWidth 66 <<< 2
  alpha (str.extractLsb' (60 - 6 * i) 6)

/-- OUT[0..12] (R263): the two salt characters, then the eleven encoded groups. -/
def outputString (salt : Vector Byte 2) (block : DWord) : Vector Byte 13 :=
  #v[salt[0], salt[1], outputChar block 0, outputChar block 1, outputChar block 2, outputChar block 3,
    outputChar block 4, outputChar block 5, outputChar block 6, outputChar block 7, outputChar block 8,
    outputChar block 9, outputChar block 10]

/-- R260 to R263 from L, R, MASK and SALT: writes OUT; then OUTV <- 1 (R265). -/
def runOutputEncoder (s : State) : State :=
  { s with out := outputString s.salt (finalBlock s.mask s.l s.r), outv := true }

/-- OUTENC (R265). -/
def execOutenc (s : State) : Host.Outcome State Fault Refusal :=
  .next (unlessHalted s (if s.saltv then succeed (runOutputEncoder s) else raise .shortSalt s))

end Sys2Proof.Machine
end

