-- ==== Sys2Proof/Machine/Salt.lean ====
section
/-!
DEFINITION. Salt values and masks, SETSALT, the SaltPermuter and SALTPERM (42_salt.md R200 to R205).
-/
namespace Sys2Proof.Machine

/-- SaltValue (R200); none is INVALID. -/
def saltValue (c : Byte) : Option (BitVec 6) :=
  if 0x2E ≤ c ∧ c ≤ 0x39 then some ((c - 0x2E).setWidth 6)
  else if 0x41 ≤ c ∧ c ≤ 0x5A then some ((c - 0x35).setWidth 6)
  else if 0x61 ≤ c ∧ c ≤ 0x7A then some ((c - 0x3B).setWidth 6)
  else none

/-- The value SaltMask uses for a character: SaltValue, and for a character that has none a free value
(Config.invalidSaltValue), which no run meets. -/
def saltValueOf (c : Byte) : BitVec 6 := (saltValue c).getD (Config.invalidSaltValue c)

/-- R201's inner loop: character `i`'s value OR'd into the mask. -/
def addSaltBits (i : Nat) (v : BitVec 6) (m : Word) : Word :=
  (List.range 6).foldl (fun m j => if v.getLsbD j then m ||| bitMask (6 * i + j) else m) m

/-- SaltMask(c0, c1) (R201). -/
def saltMask (c0 c1 : Byte) : Word := addSaltBits 1 (saltValueOf c1) (addSaltBits 0 (saltValueOf c0) 0)

/-- SALT[0] <- c0, SALT[1] <- c1, SALTV <- 1 (R203). -/
def storeSalt (s : State) (c0 c1 : Byte) : State := { s with salt := #v[c0, c1], saltv := true }

/-- SETSALT (R203), its checks in the order of 60_exceptions.md R350. No word decodes to the count 3 (30_encoding.md
R105); as an instruction it is that same illegal command. -/
def execSetsalt (n : BitVec 2) (c0 c1 : Byte) (s : State) : Host.Outcome State Fault Refusal :=
  .next (if n = 3 then illegalCommand s
    else unlessHalted s
      (if n < 2 then raise .shortSalt s
      else if saltValue c0 = none then raise .invalidSalt s
      else if saltValue c1 = none then raise .invalidSalt s
      else succeed (storeSalt s c0 c1)))

/-- ApplySalt, the SaltPermuter (R204): a memo hit writes nothing; otherwise every entry is swapped by the delta
and MASK becomes the salt's mask. -/
def applySalt (s : State) : State :=
  if saltMask s.salt[0] s.salt[1] = s.mask then s else swapBanks s (s.mask ^^^ saltMask s.salt[0] s.salt[1])

/-- SALTPERM (R205). -/
def execSaltperm (s : State) : Host.Outcome State Fault Refusal :=
  .next (unlessHalted s (if s.saltv then succeed (applySalt s) else raise .shortSalt s))

end Sys2Proof.Machine
end

