-- ==== Sys2Proof/Machine/Digest.lean ====
section
/-!
DEFINITION. The table builder's INIT (40_tables.md R158) and the digest context: NOP, RESET, UPDATE, DIGEST
(45_digest_context.md R291 to R294).
-/
namespace Sys2Proof.Machine

/-- NOP (R291): ERR <- 0, also while FATAL = 1. -/
def execNop (s : State) : Host.Outcome State Fault Refusal := .next (succeed s)

/-- INIT (40_tables.md R158). -/
def execInit (s : State) : Host.Outcome State Fault Refusal := .next (unlessHalted s (succeed (initBanks s)))

/-- RESET's register writes (R292): all but the banks, MASK, ERR and FATAL. -/
def clearContext (s : State) : State :=
  { s with
    kbuf := #v[0, 0, 0, 0, 0, 0, 0, 0]
    kcount := 0
    fin := false
    salt := #v[0, 0]
    saltv := false
    ks := #v[0, 0, 0, 0, 0, 0, 0, 0, 0, 0, 0, 0, 0, 0, 0, 0]
    l := 0
    r := 0
    out := #v[0, 0, 0, 0, 0, 0, 0, 0, 0, 0, 0, 0, 0]
    outv := false
    rdata := 0 }

/-- RESET's last use of the salt memo (R292): if MASK != 0 every entry is swapped by MASK and MASK <- 0. -/
def unapplySalt (s : State) : State := if s.mask ≠ 0 then swapBanks s s.mask else s

/-- RESET (R292). FATAL is not written. -/
def execReset (s : State) : Host.Outcome State Fault Refusal :=
  .next (unlessHalted s (succeed (unapplySalt (clearContext s))))

/-- UPDATE's effect (R293): while KCOUNT < 8 the byte's low 7 bits go to KBUF[KCOUNT]; past that the byte is
dropped. -/
def appendKeyByte (s : State) (b : Byte) : State :=
  if h : s.kcount.toNat < 8 then
    { s with kbuf := s.kbuf.set s.kcount.toNat (keyByte b) h, kcount := s.kcount + 1 }
  else s

/-- UPDATE (R293). -/
def execUpdate (b : Byte) (s : State) : Host.Outcome State Fault Refusal :=
  .next (unlessHalted s (if s.fin then raise .sequenceError s else succeed (appendKeyByte s b)))

/-- FIN <- 1 (R294). -/
def finalize (s : State) : State := { s with fin := true }

/-- DIGEST's first two units (R294): the KeyScheduler on KBUF, then the SaltPermuter. -/
def prepareDigest (s : State) : State := applySalt (runKeyScheduler s)

/-- DIGEST's units in order (R294): KeyScheduler, SaltPermuter, FeistelEngine, OutputEncoder. A violation inside
RunFeistel leaves the KS, BANK and MASK already written (60_exceptions.md R344). -/
def runDigest (s : State) : State :=
  match runFeistel (prepareDigest s) with
  | some lr => succeed (finalize (runOutputEncoder (setHalves (prepareDigest s) lr)))
  | none => raiseFatal (prepareDigest s)

/-- DIGEST (R294). -/
def execDigest (s : State) : Host.Outcome State Fault Refusal :=
  .next (unlessHalted s
    (if s.fin then raise .sequenceError s else if s.saltv then runDigest s else raise .shortSalt s))

end Sys2Proof.Machine
end

