-- ==== Sys2Proof/Machine/Readback.lean ====
section
/-!
DEFINITION. The readback commands (46_readback.md R320 to R322). None checks FATAL (R323, 60_exceptions.md R349).
-/
namespace Sys2Proof.Machine

/-- RDBANK (R320): the entry as stored, salt-permuted. -/
def execRdbank (bank : BitVec 2) (index : BitVec 12) (s : State) : Host.Outcome State Fault Refusal :=
  .next (succeed (setRdata s (bankEntry s bank.toNat index.toNat)))

/-- RDKS (R321). -/
def execRdks (index : BitVec 4) (s : State) : Host.Outcome State Fault Refusal :=
  .next (succeed (setRdata s (subkeyAt s index)))

/-- RDREG (R322): STATUS is read before this command's own ERR write. -/
def execRdreg (sel : RegSel) (s : State) : Host.Outcome State Fault Refusal :=
  .next (succeed (setRdata s (regView s sel)))

end Sys2Proof.Machine
end

