-- ==== Sys2Proof/Machine/Dispatch.lean ====
section
/-!
DEFINITION. One arm per command.
-/
namespace Sys2Proof.Machine

def exec (i : Instr) (s : State) : Host.Outcome State Fault Refusal :=
  match i with
  | .nop => Sys2Proof.Machine.execNop s
  | .init => Sys2Proof.Machine.execInit s
  | .reset => Sys2Proof.Machine.execReset s
  | .update b => Sys2Proof.Machine.execUpdate b s
  | .setsalt n c0 c1 => Sys2Proof.Machine.execSetsalt n c0 c1 s
  | .ksched => Sys2Proof.Machine.execKsched s
  | .saltperm => Sys2Proof.Machine.execSaltperm s
  | .feistel => Sys2Proof.Machine.execFeistel s
  | .outenc => Sys2Proof.Machine.execOutenc s
  | .digest => Sys2Proof.Machine.execDigest s
  | .rdbank bank index => Sys2Proof.Machine.execRdbank bank index s
  | .rdks index => Sys2Proof.Machine.execRdks index s
  | .rdreg sel => Sys2Proof.Machine.execRdreg sel s

end Sys2Proof.Machine
end

