-- ==== Sys2Proof/Machine/Step.lean ====
section
/-!
DEFINITION. One step: the port delivers its next event (00_scope.md R6, 30_encoding.md R100).
-/
namespace Sys2Proof.Machine

/-- Decoding happens before any other check (30_encoding.md R107): an illegal word is IllegalCommand, whatever the
state. -/
def runWord (w : Word) (s : State) : Host.Outcome State Fault Refusal :=
  match decode w with
  | .ok i => exec i s
  | .error _ => .next (illegalCommand s)

/-- One step. With nothing on the port the engine waits (70_reset_and_hazards.md R381). -/
def step (s : State) : Host.Outcome State Fault Refusal :=
  match s.port with
  | [] => .next s
  | .command w :: rest => runWord w { s with port := rest }
  | .hardwareReset :: rest => .next (hardwareReset { s with port := rest })

/-- `s` with a command word waiting on the port, ahead of every other event. -/
def State.withFetchWord (s : State) (nbits w : Nat) : State :=
  pushPort s (.command (BitVec.ofNat 32 (w % 2 ^ nbits)))

end Sys2Proof.Machine
end

