-- ==== Sys2Proof/Machine/Run.lean ====
section
/-!
DEFINITION. Runs of one engine: the effect of a command word as a function, command sequences, the observation of a
run (00_scope.md R7), and the command sequences the spec names (30_encoding.md R109, 45_digest_context.md R295).
-/
namespace Sys2Proof.Machine

/-- The state one command word leaves. Every command answers a next state (60_exceptions.md R340), so the other two
outcomes do not arise. -/
def command (s : State) (w : Word) : State :=
  match runWord w s with
  | .next t => t
  | .fault _ => s
  | .refused _ => s

/-- The state a sequence of command words leaves. -/
def runCommands (ws : List Word) (s : State) : State := ws.foldl command s

/-- What the host sees of one command: (ERR, RDATA) (R7; it reads RDATA at the port, 10_state.md R44). -/
def observe (s : State) : BitVec 4 × DWord := (s.err, s.rdata)

/-- The observation of a run (R7): the sequence of (ERR, RDATA) pairs its commands produce. -/
def observations : List Word → State → List (BitVec 4 × DWord)
  | [], _ => []
  | w :: ws, s => observe (command s w) :: observations ws (command s w)

/-- The engine with a sequence of commands waiting on the port. -/
def loadCommands (s : State) (ws : List Word) : State := { s with port := ws.map .command }

/-! ## The sequences of R109 and R295 -/

/-- `KEY "s"` (R109): one UPDATE per byte, in order. -/
def keyCommands (password : List Byte) : List Instr := password.map .update

/-- The SETSALT of R295: the count is min(len(s), 2), a missing character is sent as 0x00. -/
def saltCommand (salt : List Byte) : Instr :=
  .setsalt (BitVec.ofNat 2 (min salt.length 2)) (salt.getD 0 0) (salt.getD 1 0)

/-- `HASH "s", "xy"` (R109), the command sequence of `hash(password, salt)` (R295). -/
def hashCommands (password salt : List Byte) : List Instr :=
  [.reset] ++ keyCommands password ++ [saltCommand salt, .digest]

/-- `RDOUT` (R109). -/
def rdoutCommands : List Instr := [.rdreg .out0, .rdreg .out1]

/-- `STEPHASH` (R109). -/
def stephashCommands : List Instr := [.ksched, .saltperm, .feistel, .outenc]

/-- A sequence of instructions as command words. -/
def encodeAll (is : List Instr) : List Word := is.map encode

/-- The state after R295's sequence for `hash(password, salt)`. -/
def runHash (password salt : List Byte) (s : State) : State :=
  runCommands (encodeAll (hashCommands password salt)) s

end Sys2Proof.Machine
end

