-- ==== Sys2Proof/Machine/Assembler.lean ====
section
/-!
DEFINITION. The assembler syntax of 30_encoding.md R108 and the pseudo-commands of R109: from the characters of a line
to command words. `none` is an assembly error: "An operand out of its field's range is an assembly error, not a
command."
-/
namespace Sys2Proof.Machine

/-- The tokens of a line; a quoted character is its byte code. -/
inductive AsmToken where
  | name (cs : List Char)
  | number (n : Nat)
  | quoted (b : Byte)
  | text (bytes : List Byte)
  | comma
deriving DecidableEq, Repr

/-- Where the scanner stands: between tokens, inside a name or number, inside a quoted character (before and after
the character), inside a string. Letters gathered so far are in reverse. -/
inductive AsmMode where
  | between
  | inWord (acc : List Char)
  | inQuote
  | endQuote (b : Byte)
  | inText (acc : List Byte)
deriving DecidableEq, Repr

/-- A decimal digit's value. -/
def decDigit (c : Char) : Option Nat := if '0' ≤ c ∧ c ≤ '9' then some (c.toNat - '0'.toNat) else none

/-- A hexadecimal digit's value. -/
def hexDigit (c : Char) : Option Nat :=
  if 'a' ≤ c ∧ c ≤ 'f' then some (c.toNat - 'a'.toNat + 10)
  else if 'A' ≤ c ∧ c ≤ 'F' then some (c.toNat - 'A'.toNat + 10)
  else decDigit c

/-- The value of a digit string in a base. -/
def digitsValue (radix : Nat) (digit : Char → Option Nat) : List Char → Nat → Option Nat
  | [], v => some v
  | c :: cs, v =>
    match digit c with
    | none => none
    | some d => digitsValue radix digit cs (radix * v + d)

/-- A word of a line: a number (decimal or `0x` hexadecimal) if it starts with a digit, else a name. -/
def wordToken (cs : List Char) : Option AsmToken :=
  match cs with
  | '0' :: 'x' :: d :: ds => (digitsValue 16 hexDigit (d :: ds) 0).map .number
  | c :: _ => if (decDigit c).isSome then (digitsValue 10 decDigit cs 0).map .number else some (.name cs)
  | [] => none

/-- The byte code of a character; one beyond a byte is an error. -/
def charByte (c : Char) : Option Byte := if c.toNat < 256 then some (BitVec.ofNat 8 c.toNat) else none

/-- The token that a mode holds when the next character does not belong to it. -/
def pendingToken : AsmMode → Option (List AsmToken)
  | .between => some []
  | .inWord acc => (wordToken acc.reverse).map fun t => [t]
  | .inQuote | .endQuote _ | .inText _ => none

/-- Two results in sequence. -/
def joinTokens (a b : Option (List AsmToken)) : Option (List AsmToken) :=
  match a, b with
  | some x, some y => some (x ++ y)
  | _, _ => none

/-- The scanner: blanks and commas separate, `;` starts a comment, an apostrophe (code 39) quotes one character and
a double quote (code 34) a string. -/
def scan : List Char → AsmMode → Option (List AsmToken)
  | [], m => pendingToken m
  | c :: cs, .inText acc =>
    if c.toNat = 34 then joinTokens (some [.text acc.reverse]) (scan cs .between)
    else match charByte c with
      | none => none
      | some b => scan cs (.inText (b :: acc))
  | c :: cs, .inQuote =>
    match charByte c with
    | none => none
    | some b => scan cs (.endQuote b)
  | c :: cs, .endQuote b => if c.toNat = 39 then joinTokens (some [.quoted b]) (scan cs .between) else none
  | c :: cs, .between =>
    if c = ';' then some []
    else if c = ' ' ∨ c.toNat = 9 then scan cs .between
    else if c = ',' then joinTokens (some [.comma]) (scan cs .between)
    else if c.toNat = 39 then scan cs .inQuote
    else if c.toNat = 34 then scan cs (.inText [])
    else scan cs (.inWord [c])
  | c :: cs, .inWord acc =>
    if c = ';' then pendingToken (.inWord acc)
    else if c = ' ' ∨ c.toNat = 9 then joinTokens (pendingToken (.inWord acc)) (scan cs .between)
    else if c = ',' then joinTokens (pendingToken (.inWord acc)) (joinTokens (some [.comma]) (scan cs .between))
    else if c.toNat = 39 ∨ c.toNat = 34 then none
    else scan cs (.inWord (c :: acc))

/-- A number as a field of `w` bits, if it is in range. -/
def asField (w n : Nat) : Option (BitVec w) := if n < 2 ^ w then some (BitVec.ofNat w n) else none

/-- The register-select names of R108. -/
def regSelNamed (cs : List Char) : Option RegSel :=
  if cs = ['S', 'T', 'A', 'T', 'U', 'S'] then some .status
  else if cs = ['L'] then some .l
  else if cs = ['R'] then some .r
  else if cs = ['M', 'A', 'S', 'K'] then some .mask
  else if cs = ['S', 'A', 'L', 'T'] then some .salt
  else if cs = ['K', 'B', 'U', 'F'] then some .kbuf
  else if cs = ['O', 'U', 'T', '0'] then some .out0
  else if cs = ['O', 'U', 'T', '1'] then some .out1
  else none

/-- A `<byte>` of R108: a number 0x00..0xFF or a quoted character. R108 gives a quoted character for these operands
alone (UPDATE's byte, SETSALT's c0 and c1); that one is an assembly error in place of SETSALT's n or of a bank, an
index or a sel is DESIGN CHOICE, log entry 15. -/
def asmByte : AsmToken → Option Byte
  | .number n => asField 8 n
  | .quoted b => some b
  | .name _ | .text _ | .comma => none

/-- SETSALT's operands in range: n = 0..2, two bytes. -/
def asmSetsalt (n : Nat) (a b : AsmToken) : Option (List Instr) :=
  match asmByte a, asmByte b with
  | some c0, some c1 => if n ≤ 2 then some [.setsalt (BitVec.ofNat 2 n) c0 c1] else none
  | _, _ => none

/-- RDBANK's operands in range. -/
def asmRdbank (bank index : Nat) : Option (List Instr) :=
  match asField 2 bank, asField 12 index with
  | some b, some i => some [.rdbank b i]
  | _, _ => none

/-- The instructions of one line: R108's commands and R109's pseudo-commands. -/
def asmLine (tokens : List AsmToken) : Option (List Instr) :=
  match tokens with
  | [] => some []
  | .name m :: ops =>
    if m = ['N', 'O', 'P'] then (match ops with | [] => some [.nop] | _ => none)
    else if m = ['I', 'N', 'I', 'T'] then (match ops with | [] => some [.init] | _ => none)
    else if m = ['R', 'E', 'S', 'E', 'T'] then (match ops with | [] => some [.reset] | _ => none)
    else if m = ['U', 'P', 'D', 'A', 'T', 'E'] then
      (match ops with | [b] => (asmByte b).map (fun b => [.update b]) | _ => none)
    else if m = ['S', 'E', 'T', 'S', 'A', 'L', 'T'] then
      (match ops with
        | [.number n, .comma, a, .comma, b] => asmSetsalt n a b
        | [.text [c0, c1]] => some [.setsalt 2 c0 c1]
        | _ => none)
    else if m = ['K', 'S', 'C', 'H', 'E', 'D'] then (match ops with | [] => some [.ksched] | _ => none)
    else if m = ['S', 'A', 'L', 'T', 'P', 'E', 'R', 'M'] then (match ops with | [] => some [.saltperm] | _ => none)
    else if m = ['F', 'E', 'I', 'S', 'T', 'E', 'L'] then (match ops with | [] => some [.feistel] | _ => none)
    else if m = ['O', 'U', 'T', 'E', 'N', 'C'] then (match ops with | [] => some [.outenc] | _ => none)
    else if m = ['D', 'I', 'G', 'E', 'S', 'T'] then (match ops with | [] => some [.digest] | _ => none)
    else if m = ['R', 'D', 'B', 'A', 'N', 'K'] then
      (match ops with | [.number bank, .comma, .number index] => asmRdbank bank index | _ => none)
    else if m = ['R', 'D', 'K', 'S'] then
      (match ops with | [.number index] => (asField 4 index).map (fun i => [.rdks i]) | _ => none)
    else if m = ['R', 'D', 'R', 'E', 'G'] then
      (match ops with
        | [.number sel] => (asField 3 sel).map (fun c => [.rdreg (RegSel.ofCode c)])
        | [.name sel] => (regSelNamed sel).map (fun c => [.rdreg c])
        | _ => none)
    else if m = ['K', 'E', 'Y'] then (match ops with | [.text s] => some (keyCommands s) | _ => none)
    else if m = ['H', 'A', 'S', 'H'] then
      (match ops with | [.text s, .comma, .text [c0, c1]] => some (hashCommands s [c0, c1]) | _ => none)
    else if m = ['R', 'D', 'O', 'U', 'T'] then (match ops with | [] => some rdoutCommands | _ => none)
    else if m = ['S', 'T', 'E', 'P', 'H', 'A', 'S', 'H'] then (match ops with | [] => some stephashCommands | _ => none)
    else none
  | _ => none

/-- The instructions of one line of text. -/
def assembleLine (line : List Char) : Option (List Instr) :=
  match scan line .between with
  | none => none
  | some ts => asmLine ts

/-- The command words of a program, one command per line. -/
def assemble : List (List Char) → Option (List Word)
  | [] => some []
  | line :: rest =>
    match assembleLine line, assemble rest with
    | some is, some ws => some (encodeAll is ++ ws)
    | _, _ => none

end Sys2Proof.Machine
end

