-- ==== Sys2Proof/Machine/ClosedForm.lean ====
section
/-!
DEFINITION. The bit-level closed forms the spec gives beside its tables: DES numbering (00_scope.md R9), the E-layout
(R12), textbook DES with the salted expansion, and the hash contract (40_tables.md R156, 41_key_schedule.md R183,
42_salt.md R206, 43_feistel.md R236, 44_output.md R266, 45_digest_context.md R295). The machine does not use this
file: it is what the table-driven machine is stated to compute.
-/
namespace Sys2Proof.Machine

/-- DES bit `k` (1-based, 1 most significant) of an n-bit vector: `v[n-k]` (R9). -/
def desBit {n : Nat} (v : BitVec n) (k : Nat) : Bool := v.getLsbD (n - k)

/-- The m-bit vector whose DES bit i+1 is `bit i`. -/
def ofDesBits (m : Nat) (bit : Nat → Bool) : BitVec m :=
  scatter (List.range m) bit fun i => 1#m <<< (m - 1 - i)

/-- Apply a permutation table: output DES bit i+1 is input DES bit `t[i]` (R9). -/
def permute {n : Nat} (m : Nat) (t : List Nat) (v : BitVec n) : BitVec m := ofDesBits m fun i => desBit v (entry t i)

/-! ## The E-layout (R12) -/

/-- Where E bit `k` (1..48) sits in an E-layout word. -/
def ePosition (k : Nat) : Nat :=
  if k ≤ 12 then 63 - k else if k ≤ 24 then 59 - k else if k ≤ 36 then 55 - k else 51 - k

/-- The E-layout word of a 48-bit DES vector. -/
def eWord (e : BitVec 48) : DWord := scatter (List.range 48) (fun i => desBit e (i + 1)) fun i => 1#64 <<< ePosition (i + 1)

/-- The data positions: the four groups 62..51, 46..35, 30..19 and 14..3. -/
def eLayoutMask : DWord := 0x7FF87FF87FF87FF8

/-- A word that is zero outside the data positions. -/
def isELayout (x : DWord) : Prop := x &&& ~~~eLayoutMask = 0

/-! ## One S-box pair (40_tables.md R156) -/

/-- R156's `w`: S-box 2sg's output at DES bits 8sg+1..8sg+4, S-box 2sg+1's at 8sg+5..8sg+8, zero elsewhere. -/
def pairOutput (sg j1 j2 : Nat) : BitVec 32 :=
  ofDesBits 32 fun k =>
    if 8 * sg ≤ k ∧ k < 8 * sg + 4 then desBit (sLookup (2 * sg) (BitVec.ofNat 6 j1)) (k - 8 * sg + 1)
    else if 8 * sg + 4 ≤ k ∧ k < 8 * sg + 8 then desBit (sLookup (2 * sg + 1) (BitVec.ofNat 6 j2)) (k - 8 * sg - 3)
    else false

/-! ## Textbook DES with a salted expansion -/

/-- E' (42_salt.md R206) as a table: ESEL with entries k-1 and k+23 exchanged for each set salt bit k-1, k in 1..12;
salt bit j is bit 30-j of the mask (R201). -/
def saltedEsel (mask : Word) : List Nat :=
  (List.range 48).map fun i =>
    if i < 12 ∧ mask.getLsbD (30 - i) then entry esel (i + 24)
    else if 24 ≤ i ∧ i < 36 ∧ mask.getLsbD (30 - (i - 24)) then entry esel (i - 24)
    else entry esel i

/-- The eight S-boxes on a 48-bit vector; box t reads DES bits 6t+1 to 6t+6 (R147). -/
def sboxLayer (x : BitVec 48) : BitVec 32 :=
  (List.range 8).foldl
    (fun acc t => acc ||| (sLookup t (x.extractLsb' (42 - 6 * t) 6)).setWidth 32 <<< (28 - 4 * t)) 0

/-- The DES round function under a subkey, with the expansion table given. -/
def desF (expansion : List Nat) (subkey : BitVec 48) (half : BitVec 32) : BitVec 32 :=
  permute 32 perm32 (sboxLayer (permute 48 expansion half ^^^ subkey))

/-- The 64-bit DES key: byte k is `KBUF[k] << 1` (R183). -/
def desKey (kbuf : Vector Byte 8) : BitVec 64 :=
  (kbuf[0] <<< 1) ++ (kbuf[1] <<< 1) ++ (kbuf[2] <<< 1) ++ (kbuf[3] <<< 1) ++ (kbuf[4] <<< 1) ++ (kbuf[5] <<< 1)
    ++ (kbuf[6] <<< 1) ++ (kbuf[7] <<< 1)

/-- C and D of the standard key schedule after the rotations of rounds 1 to i+1. -/
def desHalves (key : BitVec 64) (i : Nat) : KeyHalf × KeyHalf :=
  let cd : BitVec 56 := permute 56 pc1 key
  let n := (rots.take (i + 1)).sum
  ((cd.extractLsb' 28 28).rotateLeft n, (cd.extractLsb' 0 28).rotateLeft n)

/-- K_{i+1}, the standard DES subkey of round i+1, i in 0..15 (R183). -/
def desSubkey (key : BitVec 64) (i : Nat) : BitVec 48 :=
  permute 48 pc2 ((desHalves key i).1 ++ (desHalves key i).2)

/-- One DES round on (left, right). -/
def desRound (expansion : List Nat) (lr : BitVec 32 × BitVec 32) (subkey : BitVec 48) : BitVec 32 × BitVec 32 :=
  (lr.2, lr.1 ^^^ desF expansion subkey lr.2)

/-- IP, the inverse of FINAL_PERM (R146): its output DES bit h is the input DES bit that FINAL_PERM takes from h. -/
def initialPerm (block : BitVec 64) : BitVec 64 := ofDesBits 64 fun h => desBit block (finalPerm.idxOf (h + 1) + 1)

/-- DES': DES encryption with the expansion replaced by E' (R236). -/
def desEncrypt (expansion : List Nat) (key block : BitVec 64) : BitVec 64 :=
  let x := initialPerm block
  let lr := (List.range 16).foldl (fun lr i => desRound expansion lr (desSubkey key i))
    (x.extractLsb' 32 32, x.extractLsb' 0 32)
  permute 64 finalPerm (lr.2 ++ lr.1)

/-- B_n: the zero block encrypted n times (R236). -/
def iteratedBlock (expansion : List Nat) (key : BitVec 64) : Nat → BitVec 64
  | 0 => 0
  | n + 1 => desEncrypt expansion key (iteratedBlock expansion key n)

/-! ## The hash contract (R295) -/

/-- The key bytes of a password (R295): the low 7 bits of its first 8 bytes, 0 beyond. -/
def passwordKey (password : List Byte) : Vector Byte 8 :=
  Vector.ofFn fun k : Fin 8 => password.getD k.val 0 &&& 0x7F

/-- `s[0] ++ s[1] ++ Encode11(DES'^25(0^64))` (R295). -/
def hashClosedForm (password : List Byte) (c0 c1 : Byte) : Vector Byte 13 :=
  outputString #v[c0, c1]
    (iteratedBlock (saltedEsel (saltMask c0 c1)) (desKey (passwordKey password)) Config.iterations)

end Sys2Proof.Machine
end

