-- ==== Sys2Proof/Machine/Platform.lean ====
section
/-!
DEFINITION. The platform: NUM_ENGINES independent engines (60_exceptions.md R360), each with the whole state of
10_state.md and its own command port. Which engine steps, and what a host writes to which port, are choices of the run
(20_memory.md R83): a step names the engine.
-/
namespace Sys2Proof.Machine

/-- The engine instances, told apart by their place (R360: no identifier register; a host tells instances apart by
which command port it writes). -/
structure Platform where
  engines : List State
deriving DecidableEq, Repr

/-- Every engine after hardware reset (R360: "with the clone made at reset"). -/
def platformReset : Platform := { engines := List.replicate Config.numEngines State.reset }

/-- A host writes one event to the port of engine `k`. -/
def deliver (p : Platform) (k : Nat) (ev : PortEvent) : Platform :=
  { engines := p.engines.modify k fun s => queuePort s ev }

/-- Engine `k` takes one step; the others do not move. A number with no engine names no port, and nothing happens. -/
def platformStep (p : Platform) (k : Nat) : Host.Outcome Platform Fault Refusal :=
  match p.engines[k]? with
  | none => .next p
  | some s =>
    match step s with
    | .next t => .next { engines := p.engines.set k t }
    | .fault f => .fault f
    | .refused q => .refused q

/-- A schedule: the engines step in the order it lists. -/
def runSchedule : List Nat → Platform → Host.Outcome Platform Fault Refusal
  | [], p => .next p
  | k :: ks, p =>
    match platformStep p k with
    | .next q => runSchedule ks q
    | .fault f => .fault f
    | .refused q => .refused q

end Sys2Proof.Machine
end

