-- ==== Sys2Proof/Safety.lean ====
section
/-!
DEFINITION. What a safe run is, and the invariants the spec gives the engine's state (10_state.md, 43_feistel.md R237),
in the terms statements use.
-/
namespace Sys2Proof.Machine

/-- A run is safe as long as FATAL = 0: "every claim about a run takes "FATAL = 0" as a premise" (60_exceptions.md
R345, 00_scope.md R7). -/
def Safe (s : State) : Prop := s.fatal = false

/-- A character of the crypt alphabet (42_salt.md R200). -/
def inAlphabet (c : Byte) : Prop := saltValue c ≠ none

/-- R31, R32: no key byte has bit 7, KCOUNT is 0..8, and an entry at an index KCOUNT or above is 0. -/
def KeyBufferLegal (s : State) : Prop :=
  s.kcount.toNat ≤ 8 ∧
    ∀ k (h : k < 8), s.kbuf[k].getLsbD 7 = false ∧ (s.kcount.toNat ≤ k → s.kbuf[k] = 0)

/-- R35: with SALTV = 1 both salt bytes are in the crypt alphabet. -/
def SaltLegal (s : State) : Prop := s.saltv = true → inAlphabet s.salt[0] ∧ inAlphabet s.salt[1]

/-- R36: MASK is 0 or the mask of some valid salt. -/
def MaskLegal (s : State) : Prop :=
  s.mask = 0 ∨ ∃ c0 c1, inAlphabet c0 ∧ inAlphabet c1 ∧ s.mask = saltMask c0 c1

/-- INV-BANK (R37): every entry satisfies BANK[b][i] = SHUF1(BASE[b][i], MASK). -/
def BanksMatchMask (s : State) : Prop := ∀ b i, b < 4 → i < 4096 → bankEntry s b i = shuf1 (base b i) s.mask

/-- The cell list is in canonical form (the model's own invariant; log entry 4). -/
def CellsCanonical (s : State) : Prop := memoryWf s.mask s.bank

/-- R38: KS is all zero (never scheduled since reset) or what the KeyScheduler makes of some key. That its entries are
then `Eword(K_{i+1}) | KEY_MARKER` is 41_key_schedule.md R183. -/
def ScheduleLegal (s : State) : Prop :=
  (∀ i (h : i < 16), s.ks[i] = 0) ∨ ∃ key : Vector Byte 8, s.ks = scheduleOf key

/-- R39: L and R are E-layout words. -/
def HalvesLegal (s : State) : Prop := isELayout s.l ∧ isELayout s.r

/-- R267: a completed output is thirteen characters of the crypt alphabet, the last one ALPHA(4k). -/
def OutputLegal (s : State) : Prop :=
  s.outv = true → (∀ i (h : i < 13), inAlphabet s.out[i]) ∧ ∃ k : BitVec 4, s.out[12] = alpha (k ++ 0#2)

/-- R341 (and U10 of 93_implementation_defined.md): ERR holds one of the codes 0 to 6. -/
def ErrLegal (s : State) : Prop := s.err ≤ 6

/-- The invariants of 10_state.md together. -/
structure Legal (s : State) : Prop where
  keyBuffer : KeyBufferLegal s
  salt : SaltLegal s
  mask : MaskLegal s
  banks : BanksMatchMask s
  cells : CellsCanonical s
  schedule : ScheduleLegal s
  halves : HalvesLegal s
  output : OutputLegal s
  err : ErrLegal s

/-- The table of R49: what the state is after hardware reset, the view STATUS included. -/
def AtReset (s : State) : Prop :=
  (∀ k (h : k < 8), s.kbuf[k] = 0) ∧ s.kcount = 0 ∧ s.fin = false ∧ s.salt[0] = 0 ∧ s.salt[1] = 0 ∧
    s.saltv = false ∧ s.mask = 0 ∧ (∀ b i, b < 4 → i < 4096 → bankEntry s b i = base b i) ∧
    (∀ k (h : k < 16), s.ks[k] = 0) ∧ s.l = 0 ∧ s.r = 0 ∧ (∀ k (h : k < 13), s.out[k] = 0) ∧ s.outv = false ∧
    s.err = 0 ∧ s.fatal = false ∧ s.rdata = 0 ∧ status s = 0

/-! ## Words and commands by kind -/

/-- The three cases of 30_encoding.md R105, on the bits of the word. -/
def illegalWord (w : Word) : Prop :=
  opField w = 0xD ∨ opField w = 0xE ∨ opField w = 0xF ∨
    (∃ op : Opcode, opField w = op.code ∧ w &&& op.maskBits ≠ op.matchBits) ∨ (opField w = 0x4 ∧ nField w = 3)

/-- NOP and the three reads, which FATAL does not stop (60_exceptions.md R349). -/
def acceptedWhileFatal : Instr → Bool
  | .nop | .rdbank _ _ | .rdks _ | .rdreg _ => true
  | .init | .reset | .update _ | .setsalt _ _ _ | .ksched | .saltperm | .feistel | .outenc | .digest => false

/-! ## The error conditions of 60_exceptions.md R350 that stand before a command runs -/

/-- Item 3: UPDATE or DIGEST with FIN = 1. -/
def sequenceErrorHolds (s : State) : Instr → Bool
  | .update _ | .digest => s.fin
  | .nop | .init | .reset | .setsalt _ _ _ | .ksched | .saltperm | .feistel | .outenc
  | .rdbank _ _ | .rdks _ | .rdreg _ => false

/-- Item 4: SETSALT with N < 2, or SALTPERM, OUTENC or DIGEST with SALTV = 0. -/
def shortSaltHolds (s : State) : Instr → Bool
  | .setsalt n _ _ => n < 2
  | .saltperm | .outenc | .digest => !s.saltv
  | .nop | .init | .reset | .update _ | .ksched | .feistel | .rdbank _ _ | .rdks _ | .rdreg _ => false

/-- Item 5: SETSALT with c0 or c1 invalid. -/
def invalidSaltHolds : Instr → Bool
  | .setsalt _ c0 c1 => (saltValue c0).isNone || (saltValue c1).isNone
  | .nop | .init | .reset | .update _ | .ksched | .saltperm | .feistel | .outenc | .digest
  | .rdbank _ _ | .rdks _ | .rdreg _ => false

/-- The first of items 2 to 5 that holds for a legal command. -/
def firstError (s : State) (i : Instr) : Option ErrorCode :=
  if s.fatal && !acceptedWhileFatal i then some .halted
  else if sequenceErrorHolds s i then some .sequenceError
  else if shortSaltHolds s i then some .shortSalt
  else if invalidSaltHolds i then some .invalidSalt
  else none

/-! ## The write matrix (10_state.md R48) -/

/-- The columns of R48: each piece of R30's state. -/
inductive Piece where
  | kbuf | kcount | fin | salt | saltv | mask | bank | ks | l | r | out | outv | fatal | rdata
deriving DecidableEq, Repr

/-- R48's row of a command: what it may write on success, besides ERR. -/
def writesOf : Instr → List Piece
  | .nop => []
  | .init => [.bank, .mask]
  | .reset => [.kbuf, .kcount, .fin, .salt, .saltv, .mask, .bank, .ks, .l, .r, .out, .outv, .rdata]
  | .update _ => [.kbuf, .kcount]
  | .setsalt _ _ _ => [.salt, .saltv]
  | .ksched => [.ks]
  | .saltperm => [.bank, .mask]
  | .feistel => [.l, .r]
  | .outenc => [.out, .outv]
  | .digest => [.ks, .bank, .mask, .l, .r, .out, .outv, .fin]
  | .rdbank _ _ | .rdks _ | .rdreg _ => [.rdata]

/-- A piece of state holds the same in both states; for the banks, every byte of the bank offset space reads the
same. -/
def samePiece (s t : State) : Piece → Prop
  | .kbuf => t.kbuf = s.kbuf
  | .kcount => t.kcount = s.kcount
  | .fin => t.fin = s.fin
  | .salt => t.salt = s.salt
  | .saltv => t.saltv = s.saltv
  | .mask => t.mask = s.mask
  | .bank => ∀ a, a < Config.bankSpace → bankByte t a = bankByte s a
  | .ks => t.ks = s.ks
  | .l => t.l = s.l
  | .r => t.r = s.r
  | .out => t.out = s.out
  | .outv => t.outv = s.outv
  | .fatal => t.fatal = s.fatal
  | .rdata => t.rdata = s.rdata

end Sys2Proof.Machine
end

