-- ==== Sys2Proof/Certificates/Slice0/Obligations.lean ====
section
/-!
DEFINITION. The statements for the provers. Rules R<n> are those of spec/. Each docstring says which rule a statement
formalises and where a clause is the model's own choice (a log entry of notes/assumptions/).
-/
section
open Sys2Proof Sys2Proof.Machine

/-! ## Reset, the port and the step -/

/-- R49: the state after hardware reset. -/
def Obligations.ResetState : Prop := AtReset State.reset

/-- R380: hardware reset, between two commands, from any state. That it comes through the port is the model's
choice (log entry 3). -/
def Obligations.HardwareResetStep : Prop :=
  ∀ (s : State) (rest : List PortEvent), s.port = .hardwareReset :: rest →
    ∃ t, step s = .next t ∧ AtReset t ∧ t.port = rest

/-- R6, R100, R346: a step runs the decoded command on the state with the word taken from the port; an illegal word
leaves ERR = 4. The port as a list and the step of an empty port are the model's choices (log entries 1, 2). -/
def Obligations.StepRunsDecodedCommand : Prop :=
  (∀ (s : State) (w : Word) (rest : List PortEvent) (i : Instr), s.port = .command w :: rest → decode w = .ok i →
    step s = exec i { s with port := rest }) ∧
  (∀ (s : State) (w : Word) (rest : List PortEvent) (e : DecodeError), s.port = .command w :: rest →
    decode w = .error e → step s = .next { s with port := rest, err := 4 }) ∧
  (∀ s : State, s.port = [] → step s = .next s) ∧
  (∀ (s : State) (nbits w : Nat) (i : Instr), decode (BitVec.ofNat 32 (w % 2 ^ nbits)) = .ok i →
    step (s.withFetchWord nbits w) = exec i s)

/-- R79, R100: the port's words take effect one at a time, in the port's order; a command leaves the words behind it
on the port (the port is the model's own field, log entry 1). -/
def Obligations.PortOrder : Prop :=
  (∀ (i : Instr) (s t : State), exec i s = .next t → t.port = s.port) ∧
  ∀ (ws : List Word) (s : State),
    core.run ws.length (loadCommands s ws) = .next { runCommands ws s with port := [] }

/-! ## Encoding -/

/-- R105, R346, R107: which words are illegal and what one does, in every state; every other word selects exactly one
row of R103 and runs its command. -/
def Obligations.IllegalWordsExactly : Prop :=
  ∀ w : Word,
    (illegalWord w → ∀ s, runWord w s = .next { s with err := 4 }) ∧
    (¬ illegalWord w → (∃! op : Opcode, w &&& op.maskBits = op.matchBits) ∧
      ∃ i, decode w = .ok i ∧ i.wellFormed = true ∧ w &&& i.opcode.maskBits = i.opcode.matchBits ∧
        ∀ s, runWord w s = exec i s)

/-- R103, R104: decoding a well-formed instruction's command word gives it back, with every operand. -/
def Obligations.DecodeEncode : Prop := ∀ i : Instr, i.wellFormed = true → decode (encode i) = .ok i

/-- R103, R104: each word has one meaning, and that meaning has no other word. -/
def Obligations.EncodeDecode : Prop :=
  ∀ (w : Word) (i : Instr), decode w = .ok i → i.wellFormed = true ∧ encode i = w

/-- Words written out from the patterns of R103, one per row. -/
def Obligations.SampleWordsDecode : Prop :=
  decode 0b0000_0000000000_00_00000000_00000000 = .ok .nop ∧
  decode 0b0001_0000000000_00_00000000_00000000 = .ok .init ∧
  decode 0b0010_0000000000_00_00000000_00000000 = .ok .reset ∧
  decode 0b0011_0000000000_00_00000000_11000001 = .ok (.update 0xC1) ∧
  decode 0b0100_0000000000_10_01101000_01100111 = .ok (.setsalt 2 0x68 0x67) ∧
  decode 0b0101_0000000000_00_00000000_00000000 = .ok .ksched ∧
  decode 0b0110_0000000000_00_00000000_00000000 = .ok .saltperm ∧
  decode 0b0111_0000000000_00_00000000_00000000 = .ok .feistel ∧
  decode 0b1000_0000000000_00_00000000_00000000 = .ok .outenc ∧
  decode 0b1001_0000000000_00_00000000_00000000 = .ok .digest ∧
  decode 0b1010_0000000000_11_00001111_11111110 = .ok (.rdbank 3 0xFFE) ∧
  decode 0b1011_0000000000_00_00000000_00001001 = .ok (.rdks 9) ∧
  decode 0b1100_0000000000_00_00000000_00000101 = .ok (.rdreg .kbuf)

/-- R108, R109: a program the assembler accepts holds no illegal word. The lexical details of the assembler are the
model's choice (log entry 15). -/
def Obligations.AssemblerEmitsLegalWords : Prop :=
  ∀ (lines : List (List Char)) (ws : List Word), assemble lines = some ws → ∀ w ∈ ws, ¬ illegalWord w

/-! ## Status and errors -/

/-- R34, R41: DSTATE and the fields of STATUS; RDREG 0 reads it as it was before its own ERR write (R42), so the
command before it is reported, and 0 by a second RDREG 0 (R322). -/
def Obligations.StatusWord : Prop :=
  ∀ s : State,
    (dstate s).code = (if s.fin then 2 else if 0 < s.kcount then 1 else 0) ∧ (dstate s).code ≠ 3 ∧
    (status s).extractLsb' 0 2 = (dstate s).code ∧ (status s).extractLsb' 2 4 = s.kcount ∧
    (status s).getLsbD 6 = s.saltv ∧ (status s).getLsbD 7 = s.outv ∧ (status s).extractLsb' 8 4 = s.err ∧
    (status s).getLsbD 12 = s.fatal ∧ (status s).extractLsb' 13 19 = 0 ∧
    ∃ t, exec (.rdreg .status) s = .next t ∧ t = { s with rdata := (status s).setWidth 64, err := 0 } ∧
      ∃ u, exec (.rdreg .status) t = .next u ∧ u.rdata.extractLsb' 8 4 = 0

/-- R341: every word ends in a next state whose ERR is 0 to 6, and each code is raised by the commands and for the
causes of its row. -/
def Obligations.ErrorCodesRaisedBy : Prop :=
  ∀ (w : Word) (s : State), ∃ t, runWord w s = .next t ∧ t.err ≤ 6 ∧
    (t.err = 1 → ∃ c0 c1, decode w = .ok (.setsalt 2 c0 c1) ∧ ¬ (inAlphabet c0 ∧ inAlphabet c1)) ∧
    (t.err = 2 → (∃ n c0 c1, decode w = .ok (.setsalt n c0 c1) ∧ n < 2) ∨
      (s.saltv = false ∧ (decode w = .ok .saltperm ∨ decode w = .ok .outenc ∨ decode w = .ok .digest))) ∧
    (t.err = 3 → (decode w = .ok .feistel ∧ runFeistel s = none) ∨
      (decode w = .ok .digest ∧ runFeistel (prepareDigest s) = none)) ∧
    (t.err = 4 ↔ illegalWord w) ∧
    (t.err = 5 → s.fin = true ∧ ((∃ b, decode w = .ok (.update b)) ∨ decode w = .ok .digest)) ∧
    (t.err = 6 → s.fatal = true ∧ ∃ i, decode w = .ok i ∧ acceptedWhileFatal i = false)

/-- R348: an error but TableOffsetInvariantViolation changes ERR and nothing else; that one has the effects of R344. -/
def Obligations.PreciseErrors : Prop :=
  ∀ (w : Word) (s t : State), runWord w s = .next t → t.err ≠ 0 →
    (t.err ≠ 3 → t = { s with err := t.err }) ∧
    (t.err = 3 →
      (decode w = .ok .feistel ∧ t = { s with outv := false, fatal := true, err := 3 }) ∨
      (decode w = .ok .digest ∧
        t = { applySalt { s with ks := scheduleOf s.kbuf } with outv := false, fatal := true, err := 3 }))

/-- R344: when MemRead raises TableOffsetInvariantViolation, and what FEISTEL and DIGEST leave when a lookup does. -/
def Obligations.ViolationEffect : Prop :=
  (∀ (s : State) (off : Nat), memRead s off = none ↔ 0x20000 ≤ off ∨ off % 8 ≠ 0) ∧
  (∀ s : State, s.fatal = false → runFeistel s = none →
    exec .feistel s = .next { s with outv := false, fatal := true, err := 3 }) ∧
  (∀ s : State, s.fatal = false → s.fin = false → s.saltv = true →
    runFeistel (applySalt { s with ks := scheduleOf s.kbuf }) = none →
    exec .digest s = .next
      { applySalt { s with ks := scheduleOf s.kbuf } with outv := false, fatal := true, err := 3 })

/-- R350: of the error conditions that hold, the first in R350's order is the one reported, with no other effect;
with none of items 1 to 5, the command succeeds or the violation of item 6 arises while it runs. -/
def Obligations.ErrorPriority : Prop :=
  ∀ (w : Word) (s : State),
    (illegalWord w → runWord w s = .next { s with err := 4 }) ∧
    ∀ i, decode w = .ok i →
      (∀ e, firstError s i = some e → runWord w s = .next { s with err := e.code }) ∧
      (firstError s i = none → ∃ t, runWord w s = .next t ∧
        (t.err = 0 ∨ (t.err = 3 ∧ (i = .feistel ∨ i = .digest))))

/-- R349: while FATAL = 1 every command but NOP and the reads raises Halted; those four execute normally. -/
def Obligations.HaltedCommands : Prop :=
  ∀ s : State, s.fatal = true →
    (∀ i : Instr, i.wellFormed = true → acceptedWhileFatal i = false → exec i s = .next { s with err := 6 }) ∧
    (∀ w, illegalWord w → runWord w s = .next { s with err := 4 }) ∧
    exec .nop s = .next { s with err := 0 } ∧
    (∀ b i, exec (.rdbank b i) s = .next { s with rdata := bankEntry s b.toNat i.toNat, err := 0 }) ∧
    (∀ i, exec (.rdks i) s = .next { s with rdata := subkeyAt s i, err := 0 }) ∧
    (∀ sel, exec (.rdreg sel) s = .next { s with rdata := regView s sel, err := 0 })

/-- R43: a violation sets FATAL and nothing else does; no command clears it, only hardware reset; while it is 1 every
command but NOP and the reads raises Halted. -/
def Obligations.FatalIsSticky : Prop :=
  (∀ (w : Word) (s t : State), runWord w s = .next t → s.fatal = true → t.fatal = true) ∧
  (∀ (w : Word) (s t : State), runWord w s = .next t → s.fatal = false → (t.fatal = true ↔ t.err = 3)) ∧
  (∀ s t : State, step s = .next t → s.fatal = true → t.fatal = false → ∃ rest, s.port = .hardwareReset :: rest) ∧
  (∀ (s : State) (rest : List PortEvent), s.port = .hardwareReset :: rest → ∃ t, step s = .next t ∧ t.fatal = false) ∧
  (∀ (s : State) (i : Instr), s.fatal = true → i.wellFormed = true → acceptedWhileFatal i = false →
    exec i s = .next { s with err := 6 })

/-- R347: UPDATE and DIGEST when FIN = 1. -/
def Obligations.SequenceErrorWhenFinalized : Prop :=
  ∀ s : State, s.fatal = false → s.fin = true →
    (∀ b, exec (.update b) s = .next { s with err := 5 }) ∧ exec .digest s = .next { s with err := 5 }

/-! ## What each command writes -/

/-- R48: the frame of every command. On success only the pieces of its row may differ (UPDATE's row: the one entry
KBUF[KCOUNT], and nothing when KCOUNT = 8; SALTPERM's: nothing when the mask stays); on an error ERR alone, but for
the effects of R344. -/
def Obligations.WriteMatrix : Prop :=
  ∀ (i : Instr) (s t : State), exec i s = .next t →
    (t.err = 0 → ∀ p, p ∉ writesOf i → samePiece s t p) ∧
    (t.err ≠ 0 → t.err ≠ 3 → ∀ p, samePiece s t p) ∧
    (t.err = 3 → ∀ p, p ≠ .outv → p ≠ .fatal → (i = .digest → p ≠ .ks ∧ p ≠ .bank ∧ p ≠ .mask) → samePiece s t p) ∧
    (∀ b, i = .update b → (8 ≤ s.kcount.toNat → samePiece s t .kbuf ∧ samePiece s t .kcount) ∧
      ∀ k (h : k < 8), k ≠ s.kcount.toNat → t.kbuf[k] = s.kbuf[k]) ∧
    (i = .saltperm → saltMask s.salt[0] s.salt[1] = s.mask → samePiece s t .bank ∧ samePiece s t .mask)

/-- R291, R320 to R322: NOP and the reads complete in every state, with these results and nothing else changed. -/
def Obligations.NopAndReadbackResults : Prop :=
  ∀ s : State,
    exec .nop s = .next { s with err := 0 } ∧
    (∀ b i, exec (.rdbank b i) s = .next { s with rdata := bankEntry s b.toNat i.toNat, err := 0 }) ∧
    (∀ k (h : k < 16), exec (.rdks (BitVec.ofNat 4 k)) s = .next { s with rdata := s.ks[k], err := 0 }) ∧
    exec (.rdreg .status) s = .next { s with rdata := (status s).setWidth 64, err := 0 } ∧
    exec (.rdreg .l) s = .next { s with rdata := s.l, err := 0 } ∧
    exec (.rdreg .r) s = .next { s with rdata := s.r, err := 0 } ∧
    exec (.rdreg .mask) s = .next { s with rdata := s.mask.setWidth 64, err := 0 } ∧
    (∃ v : DWord, exec (.rdreg .salt) s = .next { s with rdata := v, err := 0 } ∧
      v.extractLsb' 8 8 = s.salt[0] ∧ v.extractLsb' 0 8 = s.salt[1] ∧ v.extractLsb' 16 48 = 0) ∧
    (∃ v : DWord, exec (.rdreg .kbuf) s = .next { s with rdata := v, err := 0 } ∧
      ∀ k (h : k < 8), v.extractLsb' (56 - 8 * k) 8 = s.kbuf[k]) ∧
    (∃ v : DWord, exec (.rdreg .out0) s = .next { s with rdata := v, err := 0 } ∧
      ∀ k (h : k < 8), v.extractLsb' (56 - 8 * k) 8 = s.out[k]) ∧
    (∃ v : DWord, exec (.rdreg .out1) s = .next { s with rdata := v, err := 0 } ∧
      (∀ k (h : k < 5), v.extractLsb' (56 - 8 * k) 8 = s.out[8 + k]) ∧ v.extractLsb' 0 24 = 0)

/-! ## Digest context -/

/-- R158: INIT. With MASK = 0 it changes no state but ERR; that the cell list too is then the same rests on its
canonical form (log entry 4). -/
def Obligations.InitEffect : Prop :=
  ∀ s : State, s.fatal = false → ∃ t, exec .init s = .next t ∧
    t = { s with bank := t.bank, mask := 0, err := 0 } ∧
    (∀ b i, b < 4 → i < 4096 → bankEntry t b i = base b i) ∧
    (s.mask = 0 → BanksMatchMask s → CellsCanonical s → t = { s with err := 0 })

/-- R292: RESET. Every entry is swapped by the mask it carried; with MASK = 0 no bank entry is written; RESET twice is
RESET once. -/
def Obligations.ResetEffect : Prop :=
  ∀ s : State, s.fatal = false → ∃ t, exec .reset s = .next t ∧
    t = { State.reset with bank := t.bank, port := s.port } ∧
    (∀ b i, b < 4 → i < 4096 → bankEntry t b i = shuf1 (bankEntry s b i) s.mask) ∧
    (s.mask = 0 → t.bank = s.bank) ∧ exec .reset t = .next t

/-- R292, R383 with INV-BANK: RESET ends in the hardware-reset state. The premise CellsCanonical is the model's own
invariant (log entry 4). -/
def Obligations.ResetReachesHardwareResetState : Prop :=
  ∀ s : State, s.fatal = false → BanksMatchMask s → CellsCanonical s →
    exec .reset s = .next { State.reset with port := s.port }

/-- R293: UPDATE. -/
def Obligations.UpdateEffect : Prop :=
  ∀ (s : State) (b : Byte), s.fatal = false →
    (s.fin = false → ∀ h : s.kcount.toNat < 8, exec (.update b) s = .next
      { s with kbuf := s.kbuf.set s.kcount.toNat (b &&& 0x7F) h, kcount := s.kcount + 1, err := 0 }) ∧
    (s.fin = false → 8 ≤ s.kcount.toNat → exec (.update b) s = .next { s with err := 0 }) ∧
    (s.fin = true → exec (.update b) s = .next { s with err := 5 })

/-- R290: the transitions of the digest context; every command not listed leaves DSTATE unchanged. -/
def Obligations.DigestContextTransitions : Prop :=
  ∀ (i : Instr) (s t : State), exec i s = .next t →
    (∀ b, i = .update b → s.fatal = false → dstate s ≠ .finalized →
      dstate t = .accumulating ∧ t.err = 0 ∧
      ∀ k (h : k < 8), k = s.kcount.toNat → t.kbuf[k] = b &&& 0x7F ∧ t.kcount = s.kcount + 1) ∧
    (i = .digest → s.fatal = false → dstate s ≠ .finalized → s.saltv = true → t.err ≠ 3 →
      dstate t = .finalized ∧ t.outv = true ∧ t.err = 0) ∧
    (i = .digest → s.fatal = false → dstate s ≠ .finalized → s.saltv = false → dstate t = dstate s ∧ t.err = 2) ∧
    (s.fatal = false → dstate s = .finalized → (i = .digest ∨ ∃ b, i = .update b) →
      dstate t = .finalized ∧ t.err = 5) ∧
    (i = .reset → s.fatal = false → dstate t = .empty) ∧
    (i ≠ .reset → i ≠ .digest → (∀ b, i ≠ .update b) → dstate t = dstate s) ∧
    (s.fatal = true → dstate t = dstate s)

/-- R294: DIGEST completes, with the effects of its units, and leaves the rest. -/
def Obligations.DigestEffect : Prop :=
  ∀ s : State, s.fatal = false → s.fin = false → s.saltv = true → SaltLegal s → BanksMatchMask s →
    ∃ t, exec .digest s = .next t ∧
      t = { s with
        ks := scheduleOf s.kbuf, bank := t.bank, mask := saltMask s.salt[0] s.salt[1], l := t.l, r := t.r,
        out := outputString s.salt (finalBlock t.mask t.l t.r), outv := true, fin := true, err := 0 } ∧
      (∀ b i, b < 4 → i < 4096 → bankEntry t b i = shuf1 (base b i) t.mask) ∧
      runFeistel t = some (t.l, t.r)

/-- R294: DIGEST leaves what `KSCHED; SALTPERM; FEISTEL; OUTENC` leaves, and FIN = 1. -/
def Obligations.DigestRunsUnits : Prop :=
  ∀ s : State, s.fatal = false → s.fin = false → s.saltv = true → SaltLegal s → BanksMatchMask s →
    ∃ t, exec .digest s = .next t ∧ t.err = 0 ∧ t.fin = true ∧
      runCommands (encodeAll stephashCommands) s = { t with fin := false }

/-! ## Key schedule -/

/-- R182: KSCHED in every digest-context state, and its corner cases: bit 7 of a key byte plays no part, the zero key's
subkeys are KEY_MARKER, and sixteen rotations return the halves. -/
def Obligations.KschedEffect : Prop :=
  (∀ s : State, s.fatal = false → exec .ksched s = .next { s with ks := scheduleOf s.kbuf, err := 0 }) ∧
  (∀ kbuf : Vector Byte 8, scheduleOf (kbuf.map fun b => b &&& 0x7F) = scheduleOf kbuf) ∧
  (∀ k (h : k < 16), (scheduleOf #v[0, 0, 0, 0, 0, 0, 0, 0])[k] = keyMarker) ∧
  (∀ cd : KeyHalf × KeyHalf, halvesAt cd 15 = cd)

/-- R183: after KSCHED, KS[i] is the E-layout word of the standard DES subkey K_{i+1}, with KEY_MARKER. -/
def Obligations.KeyScheduleClosedForm : Prop :=
  ∀ s : State, s.fatal = false → ∃ t, exec .ksched s = .next t ∧
    ∀ i (h : i < 16), t.ks[i] = eWord (desSubkey (desKey s.kbuf) i) ||| keyMarker

/-! ## Salt and banks -/

/-- R200, R264: SaltValue and ALPHA are inverse to each other, and the alphabet in value order. -/
def Obligations.SaltAlphabet : Prop :=
  (∀ (c : Byte) (v : BitVec 6), saltValue c = some v ↔ c = alpha v) ∧
  (List.range 64).map (fun v => alpha (BitVec.ofNat 6 v)) =
    [0x2E, 0x2F, 0x30, 0x31, 0x32, 0x33, 0x34, 0x35, 0x36, 0x37, 0x38, 0x39] ++
    [0x41, 0x42, 0x43, 0x44, 0x45, 0x46, 0x47, 0x48, 0x49, 0x4A, 0x4B, 0x4C, 0x4D] ++
    [0x4E, 0x4F, 0x50, 0x51, 0x52, 0x53, 0x54, 0x55, 0x56, 0x57, 0x58, 0x59, 0x5A] ++
    [0x61, 0x62, 0x63, 0x64, 0x65, 0x66, 0x67, 0x68, 0x69, 0x6A, 0x6B, 0x6C, 0x6D] ++
    [0x6E, 0x6F, 0x70, 0x71, 0x72, 0x73, 0x74, 0x75, 0x76, 0x77, 0x78, 0x79, 0x7A]

/-- R201: bit j of character i's value is mask bit 30 - (6i + j), no other bit is set, and distinct valid salts have
distinct masks. -/
def Obligations.SaltMaskBits : Prop :=
  ∀ (c0 c1 : Byte) (v0 v1 : BitVec 6), saltValue c0 = some v0 → saltValue c1 = some v1 →
    (∀ j, j < 6 → (saltMask c0 c1).getLsbD (30 - j) = v0.getLsbD j ∧
      (saltMask c0 c1).getLsbD (24 - j) = v1.getLsbD j) ∧
    (saltMask c0 c1).getLsbD 31 = false ∧ (∀ p, p < 19 → (saltMask c0 c1).getLsbD p = false) ∧
    (∀ d0 d1, inAlphabet d0 → inAlphabet d1 → saltMask c0 c1 = saltMask d0 d1 → c0 = d0 ∧ c1 = d1)

/-- R202 for a salt mask: on an E-layout word SHUF1 exchanges E bits k and k + 24 for each salt bit k - 1 that is
set, k in 1..12, and moves nothing else. -/
def Obligations.SwapExchangesEBits : Prop :=
  ∀ (c0 c1 : Byte) (e : BitVec 48), inAlphabet c0 → inAlphabet c1 →
    shuf1 (eWord e) (saltMask c0 c1) = eWord (ofDesBits 48 fun i =>
      if i < 12 ∧ (saltMask c0 c1).getLsbD (30 - i) then desBit e (i + 25)
      else if 24 ≤ i ∧ i < 36 ∧ (saltMask c0 c1).getLsbD (54 - i) then desBit e (i - 23)
      else desBit e (i + 1))

/-- R203: SETSALT. The count 3 is R105's illegal command; that it has a meaning as an instruction is the model's choice
(log entry 9). -/
def Obligations.SetsaltEffect : Prop :=
  ∀ (s : State) (n : BitVec 2) (c0 c1 : Byte),
    (n = 3 → exec (.setsalt n c0 c1) s = .next { s with err := 4 }) ∧
    (s.fatal = false → n < 2 → exec (.setsalt n c0 c1) s = .next { s with err := 2 }) ∧
    (s.fatal = false → n = 2 → ¬ (inAlphabet c0 ∧ inAlphabet c1) →
      exec (.setsalt n c0 c1) s = .next { s with err := 1 }) ∧
    (s.fatal = false → n = 2 → inAlphabet c0 → inAlphabet c1 →
      exec (.setsalt n c0 c1) s = .next { s with salt := #v[c0, c1], saltv := true, err := 0 })

/-- R204, R205: SALTPERM: every entry is swapped by the XOR of the two masks, MASK becomes the salt's; a memo hit
writes nothing but ERR; without a validated salt, ShortSalt. -/
def Obligations.SaltpermEffect : Prop :=
  ∀ s : State, s.fatal = false →
    (s.saltv = true → ∃ t, exec .saltperm s = .next t ∧
      t = { s with bank := t.bank, mask := saltMask s.salt[0] s.salt[1], err := 0 } ∧
      (∀ b i, b < 4 → i < 4096 → bankEntry t b i = shuf1 (bankEntry s b i) (s.mask ^^^ t.mask)) ∧
      (saltMask s.salt[0] s.salt[1] = s.mask → t = { s with err := 0 })) ∧
    (s.saltv = false → exec .saltperm s = .next { s with err := 2 })

/-- R207: SALTPERM twice is SALTPERM once, for any state with SALTV = 1. -/
def Obligations.SaltpermIdempotent : Prop :=
  ∀ s : State, s.saltv = true → ∃ t, exec .saltperm s = .next t ∧ exec .saltperm t = .next t

/-- R156: the base banks are the E-layout of E(P(w)), w the two S-box outputs in their places. -/
def Obligations.BaseBankClosedForm : Prop :=
  ∀ sg j1 j2, sg < 4 → j1 < 64 → j2 < 64 →
    base sg (64 * j1 + j2) = eWord (permute 48 esel (permute 32 perm32 (pairOutput sg j1 j2))) ∧
    isELayout (base sg (64 * j1 + j2))

/-- R206: with the banks at SHUF(BASE, m), every entry is the same with the salted expansion E'. -/
def Obligations.SaltedBankClosedForm : Prop :=
  ∀ (s : State) (c0 c1 : Byte), inAlphabet c0 → inAlphabet c1 → s.mask = saltMask c0 c1 → BanksMatchMask s →
    ∀ sg j1 j2, sg < 4 → j1 < 64 → j2 < 64 →
      bankEntry s sg (64 * j1 + j2) =
        eWord (permute 48 (saltedEsel s.mask) (permute 32 perm32 (pairOutput sg j1 j2)))

/-- R70, R71, R73, R74: MemRead reaches every entry at its offset, and nothing at any other offset. -/
def Obligations.MemReadDispatch : Prop :=
  ∀ s : State,
    (∀ b i, b < 4 → i < 4096 → memRead s (0x8000 * b + 8 * i) = some (bankEntry s b i)) ∧
    (∀ off, 0x20000 ≤ off → memRead s off = none) ∧ (∀ off, off % 8 ≠ 0 → memRead s off = none)

/-- 00_scope.md R11: MemWrite is MemRead's matching write: what it wrote reads back, every other offset and every byte
outside the eight reads as before, and no other state changes. -/
def Obligations.MemWriteReadsBack : Prop :=
  ∀ (s : State) (off : Nat) (v : DWord), off < 0x20000 → off % 8 = 0 → ∃ t, memWrite s off v = some t ∧
    t = { s with bank := t.bank } ∧ memRead t off = some v ∧
    (∀ off', off' ≠ off → memRead t off' = memRead s off') ∧
    (∀ a, a < off ∨ off + 8 ≤ a → bankByte t a = bankByte s a)

/-! ## Feistel engine -/

/-- R233: when the index word is an E-layout word with the KEY_MARKER bits, its four chunks select the banks 0 to 3,
each at the entry index (j1 << 6) | j2 of chunk[14:9] and chunk[8:3]. -/
def Obligations.IndexWordSelectsBanks : Prop :=
  ∀ (s : State) (x : DWord), isELayout (x ^^^ keyMarker) →
    feistelF s x = some
      (bankEntry s 0 (64 * (x.extractLsb' 57 6).toNat + (x.extractLsb' 51 6).toNat) ^^^
        bankEntry s 1 (64 * (x.extractLsb' 41 6).toNat + (x.extractLsb' 35 6).toNat) ^^^
        bankEntry s 2 (64 * (x.extractLsb' 25 6).toNat + (x.extractLsb' 19 6).toNat) ^^^
        bankEntry s 3 (64 * (x.extractLsb' 9 6).toNat + (x.extractLsb' 3 6).toNat))

/-- R234, R235: FEISTEL completes in every legal state, writes L and R, both E-layout words, and a second FEISTEL
writes the same. -/
def Obligations.FeistelEffect : Prop :=
  ∀ s : State, s.fatal = false → BanksMatchMask s → MaskLegal s → ScheduleLegal s →
    ∃ l r, runFeistel s = some (l, r) ∧ isELayout l ∧ isELayout r ∧
      exec .feistel s = .next { s with l := l, r := r, err := 0 } ∧
      exec .feistel { s with l := l, r := r, err := 0 } = .next { s with l := l, r := r, err := 0 }

/-- R235: with KS all zero FEISTEL gives L = R = 0, whatever the banks hold. -/
def Obligations.FeistelZeroSchedule : Prop :=
  ∀ s : State, s.fatal = false → (∀ i (h : i < 16), s.ks[i] = 0) →
    exec .feistel s = .next { s with l := 0, r := 0, err := 0 }

/-- R236: with the banks salted by m and KS the schedule of the key, FEISTEL leaves the salted E-expansions of the
halves of IP(B_25). -/
def Obligations.FeistelClosedForm : Prop :=
  ∀ (s : State) (key : Vector Byte 8) (c0 c1 : Byte), s.fatal = false → inAlphabet c0 → inAlphabet c1 →
    s.mask = saltMask c0 c1 → BanksMatchMask s → s.ks = scheduleOf key →
    ∃ l r, exec .feistel s = .next { s with l := l, r := r, err := 0 } ∧
      shuf1 l s.mask = eWord (permute 48 esel
        ((initialPerm (iteratedBlock (saltedEsel s.mask) (desKey key) 25)).extractLsb' 32 32)) ∧
      shuf1 r s.mask = eWord (permute 48 esel
        ((initialPerm (iteratedBlock (saltedEsel s.mask) (desKey key) 25)).extractLsb' 0 32))

/-! ## Output encoder -/

/-- R265: OUTENC; all dots after the prefix when L = R = 0; OUTENC twice writes the same; ShortSalt without a
validated salt. -/
def Obligations.OutencEffect : Prop :=
  ∀ s : State, s.fatal = false →
    (s.saltv = true → ∃ t, exec .outenc s = .next t ∧
      t = { s with out := outputString s.salt (finalBlock s.mask s.l s.r), outv := true, err := 0 } ∧
      (s.l = 0 → s.r = 0 → ∀ k (h : k < 13), 2 ≤ k → t.out[k] = 0x2E) ∧ exec .outenc t = .next t) ∧
    (s.saltv = false → exec .outenc s = .next { s with err := 2 })

/-- R260, R261: group g is E bits 6g + 1 to 6g + 6 of the un-salted 96-bit sequence, the l half then the r half. -/
def Obligations.OutputGroups : Prop :=
  ∀ (mask : Word) (l r : DWord), (outputGroups mask l r).length = 16 ∧
    ∀ g, g < 8 → ∀ k, 1 ≤ k → k ≤ 6 →
      desBit ((outputGroups mask l r).getD g 0) k = (shuf1 l mask).getLsbD (ePosition (6 * g + k)) ∧
      desBit ((outputGroups mask l r).getD (g + 8) 0) k = (shuf1 r mask).getLsbD (ePosition (6 * g + k))

/-- R263: the salt characters, then the eleven groups of v1 ++ v2 and two zero bits. -/
def Obligations.RadixEncoding : Prop :=
  ∀ (salt : Vector Byte 2) (v1 v2 : Word),
    outputString salt (v1 ++ v2) =
      #v[salt[0], salt[1], alpha (v1.extractLsb' 26 6), alpha (v1.extractLsb' 20 6), alpha (v1.extractLsb' 14 6),
        alpha (v1.extractLsb' 8 6), alpha (v1.extractLsb' 2 6), alpha (v1.extractLsb' 0 2 ++ v2.extractLsb' 28 4),
        alpha (v2.extractLsb' 22 6), alpha (v2.extractLsb' 16 6), alpha (v2.extractLsb' 10 6),
        alpha (v2.extractLsb' 4 6), alpha (v2.extractLsb' 0 4 ++ 0#2)]

/-- R266: v1 ++ v2 is FINAL_PERM of the two recovered halves; so when L and R are as R236 says of a block (B_25) for
mask m, it is that block. -/
def Obligations.OutputClosedForm : Prop :=
  ∀ (m : Word) (l r : DWord),
    (∀ x1 x2 : BitVec 32, shuf1 l m = eWord (permute 48 esel x1) → shuf1 r m = eWord (permute 48 esel x2) →
      finalBlock m l r = permute 64 finalPerm (x1 ++ x2)) ∧
    (∀ block : BitVec 64, shuf1 l m = eWord (permute 48 esel ((initialPerm block).extractLsb' 32 32)) →
      shuf1 r m = eWord (permute 48 esel ((initialPerm block).extractLsb' 0 32)) → finalBlock m l r = block)

/-- R267: the shape of a completed output. -/
def Obligations.OutputShape : Prop :=
  ∀ s : State, s.fatal = false → s.saltv = true → ∃ t, exec .outenc s = .next t ∧
    t.out[0] = s.salt[0] ∧ t.out[1] = s.salt[1] ∧ (∀ k (h : k < 13), 2 ≤ k → inAlphabet t.out[k]) ∧
    (∃ k : BitVec 4, t.out[12] = alpha (k ++ 0#2)) ∧ (SaltLegal s → ∀ k (h : k < 13), inAlphabet t.out[k])

/-! ## The hash contract -/

/-- R295: the command sequence computes `hash(p, s)`; a refused salt is refused by SETSALT and again by DIGEST.
The premise is INV-BANK (R37), which every step keeps. -/
def Obligations.HashContract : Prop :=
  ∀ (password salt : List Byte) (s : State), s.fatal = false → BanksMatchMask s →
    (∀ c0 c1 more, salt = c0 :: c1 :: more → inAlphabet c0 → inAlphabet c1 →
      ∃ t, runHash password salt s = t ∧ t.err = 0 ∧ t.outv = true ∧ t.fin = true ∧
        t.out = hashClosedForm password c0 c1 ∧
        observations (encodeAll rdoutCommands) t = [(0, out0View t), (0, out1View t)]) ∧
    (∀ u, u = runCommands (encodeAll ([.reset] ++ keyCommands password ++ [saltCommand salt])) s →
      (salt.length < 2 → u.err = 2 ∧ (runHash password salt s).err = 2 ∧ (runHash password salt s).outv = false) ∧
      (∀ c0 c1 more, salt = c0 :: c1 :: more → ¬ (inAlphabet c0 ∧ inAlphabet c1) →
        u.err = 1 ∧ (runHash password salt s).err = 2 ∧ (runHash password salt s).outv = false))

/-- R297 (a): the sequence's result does not depend on the state it starts from. CellsCanonical is the model's own
invariant (log entry 4). -/
def Obligations.HashIgnoresEarlierState : Prop :=
  ∀ (password salt : List Byte) (s u : State), s.fatal = false → u.fatal = false → BanksMatchMask s →
    BanksMatchMask u → CellsCanonical s → CellsCanonical u →
    runHash password salt s = { runHash password salt u with port := s.port }

/-- R297 (b), (c): only the low 7 bits of the first 8 bytes of the password matter, a shorter one padded with zero
bytes. -/
def Obligations.HashReadsEightSevenBitBytes : Prop :=
  ∀ (p q salt : List Byte) (s : State), (∀ k, k < 8 → p.getD k 0 &&& 0x7F = q.getD k 0 &&& 0x7F) →
    (runHash p salt s).out = (runHash q salt s).out ∧ (runHash p salt s).err = (runHash q salt s).err

/-- R391: INIT, SALTPERM, KSCHED, NOP and the reads before a DIGEST leave its result as it is, and UPDATE and SETSALT
may be exchanged (ERR apart, which the DIGEST overwrites). -/
def Obligations.HarmlessOrders : Prop :=
  ∀ s : State, s.fatal = false → s.fin = false → CellsCanonical s → BanksMatchMask s →
    (s.saltv = true → ∀ i : Instr, (i = .init ∨ i = .saltperm ∨ i = .ksched ∨ acceptedWhileFatal i = true) →
      { runCommands (encodeAll [i, .digest]) s with rdata := s.rdata } =
        { runCommands (encodeAll [.digest]) s with rdata := s.rdata }) ∧
    (∀ b c0 c1, runCommands (encodeAll [.update b, .setsalt 2 c0 c1, .digest]) s =
      runCommands (encodeAll [.setsalt 2 c0 c1, .update b, .digest]) s)

/-! ## Invariants -/

/-- The invariants of 10_state.md hold after reset. -/
def Obligations.LegalAtReset : Prop := Legal State.reset ∧ Safe State.reset

/-- R37: INV-BANK holds after reset and after every step from a state that has it, and RDBANK then reads
SHUF1(BASE, MASK). -/
def Obligations.BankInvariantKept : Prop :=
  BanksMatchMask State.reset ∧
  ∀ s : State, BanksMatchMask s →
    (∀ t, step s = .next t → BanksMatchMask t) ∧
    ∀ (b : BitVec 2) (i : BitVec 12),
      exec (.rdbank b i) s = .next { s with rdata := shuf1 (base b.toNat i.toNat) s.mask, err := 0 }

/-- The cell list keeps its canonical form (the model's own invariant, log entry 4). -/
def Obligations.CanonicalCellsKept : Prop := ∀ s t : State, CellsCanonical s → step s = .next t → CellsCanonical t

/-- Two canonical cell lists that read the same at every offset are the same list (log entry 4). -/
def Obligations.EqualBanksEqualCells : Prop :=
  ∀ (mask : Word) (m n : List Host.Cell), memoryWf mask m → memoryWf mask n →
    (∀ a, a < Config.bankSpace → readByte mask m a = readByte mask n a) → m = n

/-- R31, R32, R35, R36, R37, R38, R39, R267, R341: every step keeps the invariants of the state. -/
def Obligations.StateInvariantsKept : Prop := ∀ s t : State, Legal s → step s = .next t → Legal t

/-- R237: from a legal state no command raises TableOffsetInvariantViolation, so FATAL stays 0; every index word of
R231 has its KEY_MARKER bits as its subkey has them and zeros at every other position off the data, so each of its
four offsets is a multiple of 8. -/
def Obligations.LegalRunsNeverFault : Prop :=
  ∀ s : State, Legal s →
    (∀ w t, runWord w s = .next t → t.err ≠ 3) ∧ (∀ t, step s = .next t → Safe s → Safe t) ∧
    (∀ b i, b < 4 → i < 4096 → isELayout (bankEntry s b i)) ∧
    ∀ (i : Nat) (h : i < 16) (half x : DWord), isELayout half → x = s.ks[i] ^^^ half →
      x.getLsbD 63 = false ∧ x.getLsbD 31 = false ∧
      x.extractLsb' 48 3 = 0 ∧ x.extractLsb' 32 3 = 0 ∧ x.extractLsb' 16 3 = 0 ∧ x.extractLsb' 0 3 = 0 ∧
      x.getLsbD 47 = (s.ks[i]).getLsbD 47 ∧ x.getLsbD 15 = (s.ks[i]).getLsbD 15 ∧ feistelF s x ≠ none

/-! ## The platform -/

/-- R360: a step of one engine, or a word given to it, leaves every other engine as it was; what an engine does rests
on its own state alone; and steps of two engines may be exchanged. -/
def Obligations.EnginesIndependent : Prop :=
  (∀ (p q : Platform) (k : Nat), platformStep p k = .next q → ∀ j, j ≠ k → q.engines[j]? = p.engines[j]?) ∧
  (∀ (p : Platform) (k : Nat) (ev : PortEvent) (j : Nat), j ≠ k → (deliver p k ev).engines[j]? = p.engines[j]?) ∧
  (∀ (p q p' q' : Platform) (k : Nat), p.engines[k]? = p'.engines[k]? → platformStep p k = .next q →
    platformStep p' k = .next q' → q.engines[k]? = q'.engines[k]?) ∧
  (∀ (p : Platform) (j k : Nat), j ≠ k → runSchedule [j, k] p = runSchedule [k, j] p) ∧
  platformReset.engines.length = Config.numEngines ∧ 1 ≤ Config.numEngines ∧
  ∀ s ∈ platformReset.engines, AtReset s

end
end

