-- ==== Sys2Proof/Laws/State.lean ====
section
/-!
SUPPORT. One lemma per field per update of State, each true by rfl, so that no proof unfolds a record update.
-/
namespace Sys2Proof.Machine

variable (s : State)

/-! ## raise -/

@[simp] theorem raise_kbuf (e : ErrorCode) : (raise e s).kbuf = s.kbuf := rfl
@[simp] theorem raise_kcount (e : ErrorCode) : (raise e s).kcount = s.kcount := rfl
@[simp] theorem raise_fin (e : ErrorCode) : (raise e s).fin = s.fin := rfl
@[simp] theorem raise_salt (e : ErrorCode) : (raise e s).salt = s.salt := rfl
@[simp] theorem raise_saltv (e : ErrorCode) : (raise e s).saltv = s.saltv := rfl
@[simp] theorem raise_mask (e : ErrorCode) : (raise e s).mask = s.mask := rfl
@[simp] theorem raise_bank (e : ErrorCode) : (raise e s).bank = s.bank := rfl
@[simp] theorem raise_ks (e : ErrorCode) : (raise e s).ks = s.ks := rfl
@[simp] theorem raise_l (e : ErrorCode) : (raise e s).l = s.l := rfl
@[simp] theorem raise_r (e : ErrorCode) : (raise e s).r = s.r := rfl
@[simp] theorem raise_out (e : ErrorCode) : (raise e s).out = s.out := rfl
@[simp] theorem raise_outv (e : ErrorCode) : (raise e s).outv = s.outv := rfl
@[simp] theorem raise_err (e : ErrorCode) : (raise e s).err = e.code := rfl
@[simp] theorem raise_fatal (e : ErrorCode) : (raise e s).fatal = s.fatal := rfl
@[simp] theorem raise_rdata (e : ErrorCode) : (raise e s).rdata = s.rdata := rfl
@[simp] theorem raise_port (e : ErrorCode) : (raise e s).port = s.port := rfl

/-! ## succeed -/

@[simp] theorem succeed_kbuf : (succeed s).kbuf = s.kbuf := rfl
@[simp] theorem succeed_kcount : (succeed s).kcount = s.kcount := rfl
@[simp] theorem succeed_fin : (succeed s).fin = s.fin := rfl
@[simp] theorem succeed_salt : (succeed s).salt = s.salt := rfl
@[simp] theorem succeed_saltv : (succeed s).saltv = s.saltv := rfl
@[simp] theorem succeed_mask : (succeed s).mask = s.mask := rfl
@[simp] theorem succeed_bank : (succeed s).bank = s.bank := rfl
@[simp] theorem succeed_ks : (succeed s).ks = s.ks := rfl
@[simp] theorem succeed_l : (succeed s).l = s.l := rfl
@[simp] theorem succeed_r : (succeed s).r = s.r := rfl
@[simp] theorem succeed_out : (succeed s).out = s.out := rfl
@[simp] theorem succeed_outv : (succeed s).outv = s.outv := rfl
@[simp] theorem succeed_err : (succeed s).err = 0 := rfl
@[simp] theorem succeed_fatal : (succeed s).fatal = s.fatal := rfl
@[simp] theorem succeed_rdata : (succeed s).rdata = s.rdata := rfl
@[simp] theorem succeed_port : (succeed s).port = s.port := rfl

/-! ## raiseFatal -/

@[simp] theorem raiseFatal_kbuf : (raiseFatal s).kbuf = s.kbuf := rfl
@[simp] theorem raiseFatal_kcount : (raiseFatal s).kcount = s.kcount := rfl
@[simp] theorem raiseFatal_fin : (raiseFatal s).fin = s.fin := rfl
@[simp] theorem raiseFatal_salt : (raiseFatal s).salt = s.salt := rfl
@[simp] theorem raiseFatal_saltv : (raiseFatal s).saltv = s.saltv := rfl
@[simp] theorem raiseFatal_mask : (raiseFatal s).mask = s.mask := rfl
@[simp] theorem raiseFatal_bank : (raiseFatal s).bank = s.bank := rfl
@[simp] theorem raiseFatal_ks : (raiseFatal s).ks = s.ks := rfl
@[simp] theorem raiseFatal_l : (raiseFatal s).l = s.l := rfl
@[simp] theorem raiseFatal_r : (raiseFatal s).r = s.r := rfl
@[simp] theorem raiseFatal_out : (raiseFatal s).out = s.out := rfl
@[simp] theorem raiseFatal_outv : (raiseFatal s).outv = false := rfl
@[simp] theorem raiseFatal_err : (raiseFatal s).err = 3 := rfl
@[simp] theorem raiseFatal_fatal : (raiseFatal s).fatal = true := rfl
@[simp] theorem raiseFatal_rdata : (raiseFatal s).rdata = s.rdata := rfl
@[simp] theorem raiseFatal_port : (raiseFatal s).port = s.port := rfl

/-! ## setRdata -/

@[simp] theorem setRdata_kbuf (v : DWord) : (setRdata s v).kbuf = s.kbuf := rfl
@[simp] theorem setRdata_kcount (v : DWord) : (setRdata s v).kcount = s.kcount := rfl
@[simp] theorem setRdata_fin (v : DWord) : (setRdata s v).fin = s.fin := rfl
@[simp] theorem setRdata_salt (v : DWord) : (setRdata s v).salt = s.salt := rfl
@[simp] theorem setRdata_saltv (v : DWord) : (setRdata s v).saltv = s.saltv := rfl
@[simp] theorem setRdata_mask (v : DWord) : (setRdata s v).mask = s.mask := rfl
@[simp] theorem setRdata_bank (v : DWord) : (setRdata s v).bank = s.bank := rfl
@[simp] theorem setRdata_ks (v : DWord) : (setRdata s v).ks = s.ks := rfl
@[simp] theorem setRdata_l (v : DWord) : (setRdata s v).l = s.l := rfl
@[simp] theorem setRdata_r (v : DWord) : (setRdata s v).r = s.r := rfl
@[simp] theorem setRdata_out (v : DWord) : (setRdata s v).out = s.out := rfl
@[simp] theorem setRdata_outv (v : DWord) : (setRdata s v).outv = s.outv := rfl
@[simp] theorem setRdata_err (v : DWord) : (setRdata s v).err = s.err := rfl
@[simp] theorem setRdata_fatal (v : DWord) : (setRdata s v).fatal = s.fatal := rfl
@[simp] theorem setRdata_rdata (v : DWord) : (setRdata s v).rdata = v := rfl
@[simp] theorem setRdata_port (v : DWord) : (setRdata s v).port = s.port := rfl

/-! ## initBanks -/

@[simp] theorem initBanks_kbuf : (initBanks s).kbuf = s.kbuf := rfl
@[simp] theorem initBanks_kcount : (initBanks s).kcount = s.kcount := rfl
@[simp] theorem initBanks_fin : (initBanks s).fin = s.fin := rfl
@[simp] theorem initBanks_salt : (initBanks s).salt = s.salt := rfl
@[simp] theorem initBanks_saltv : (initBanks s).saltv = s.saltv := rfl
@[simp] theorem initBanks_mask : (initBanks s).mask = 0 := rfl
@[simp] theorem initBanks_bank : (initBanks s).bank = [] := rfl
@[simp] theorem initBanks_ks : (initBanks s).ks = s.ks := rfl
@[simp] theorem initBanks_l : (initBanks s).l = s.l := rfl
@[simp] theorem initBanks_r : (initBanks s).r = s.r := rfl
@[simp] theorem initBanks_out : (initBanks s).out = s.out := rfl
@[simp] theorem initBanks_outv : (initBanks s).outv = s.outv := rfl
@[simp] theorem initBanks_err : (initBanks s).err = s.err := rfl
@[simp] theorem initBanks_fatal : (initBanks s).fatal = s.fatal := rfl
@[simp] theorem initBanks_rdata : (initBanks s).rdata = s.rdata := rfl
@[simp] theorem initBanks_port : (initBanks s).port = s.port := rfl

/-! ## swapBanks -/

@[simp] theorem swapBanks_kbuf (d : Word) : (swapBanks s d).kbuf = s.kbuf := rfl
@[simp] theorem swapBanks_kcount (d : Word) : (swapBanks s d).kcount = s.kcount := rfl
@[simp] theorem swapBanks_fin (d : Word) : (swapBanks s d).fin = s.fin := rfl
@[simp] theorem swapBanks_salt (d : Word) : (swapBanks s d).salt = s.salt := rfl
@[simp] theorem swapBanks_saltv (d : Word) : (swapBanks s d).saltv = s.saltv := rfl
@[simp] theorem swapBanks_mask (d : Word) : (swapBanks s d).mask = s.mask ^^^ d := rfl
@[simp] theorem swapBanks_bank (d : Word) : (swapBanks s d).bank = swapCells s.mask s.bank d := rfl
@[simp] theorem swapBanks_ks (d : Word) : (swapBanks s d).ks = s.ks := rfl
@[simp] theorem swapBanks_l (d : Word) : (swapBanks s d).l = s.l := rfl
@[simp] theorem swapBanks_r (d : Word) : (swapBanks s d).r = s.r := rfl
@[simp] theorem swapBanks_out (d : Word) : (swapBanks s d).out = s.out := rfl
@[simp] theorem swapBanks_outv (d : Word) : (swapBanks s d).outv = s.outv := rfl
@[simp] theorem swapBanks_err (d : Word) : (swapBanks s d).err = s.err := rfl
@[simp] theorem swapBanks_fatal (d : Word) : (swapBanks s d).fatal = s.fatal := rfl
@[simp] theorem swapBanks_rdata (d : Word) : (swapBanks s d).rdata = s.rdata := rfl
@[simp] theorem swapBanks_port (d : Word) : (swapBanks s d).port = s.port := rfl

/-! ## setBankEntry -/

@[simp] theorem setBankEntry_kbuf (b i : Nat) (v : DWord) : (setBankEntry s b i v).kbuf = s.kbuf := rfl
@[simp] theorem setBankEntry_kcount (b i : Nat) (v : DWord) : (setBankEntry s b i v).kcount = s.kcount := rfl
@[simp] theorem setBankEntry_fin (b i : Nat) (v : DWord) : (setBankEntry s b i v).fin = s.fin := rfl
@[simp] theorem setBankEntry_salt (b i : Nat) (v : DWord) : (setBankEntry s b i v).salt = s.salt := rfl
@[simp] theorem setBankEntry_saltv (b i : Nat) (v : DWord) : (setBankEntry s b i v).saltv = s.saltv := rfl
@[simp] theorem setBankEntry_mask (b i : Nat) (v : DWord) : (setBankEntry s b i v).mask = s.mask := rfl
@[simp] theorem setBankEntry_bank (b i : Nat) (v : DWord) : (setBankEntry s b i v).bank = writeEntry s.mask s.bank (4096 * b + i) v := rfl
@[simp] theorem setBankEntry_ks (b i : Nat) (v : DWord) : (setBankEntry s b i v).ks = s.ks := rfl
@[simp] theorem setBankEntry_l (b i : Nat) (v : DWord) : (setBankEntry s b i v).l = s.l := rfl
@[simp] theorem setBankEntry_r (b i : Nat) (v : DWord) : (setBankEntry s b i v).r = s.r := rfl
@[simp] theorem setBankEntry_out (b i : Nat) (v : DWord) : (setBankEntry s b i v).out = s.out := rfl
@[simp] theorem setBankEntry_outv (b i : Nat) (v : DWord) : (setBankEntry s b i v).outv = s.outv := rfl
@[simp] theorem setBankEntry_err (b i : Nat) (v : DWord) : (setBankEntry s b i v).err = s.err := rfl
@[simp] theorem setBankEntry_fatal (b i : Nat) (v : DWord) : (setBankEntry s b i v).fatal = s.fatal := rfl
@[simp] theorem setBankEntry_rdata (b i : Nat) (v : DWord) : (setBankEntry s b i v).rdata = s.rdata := rfl
@[simp] theorem setBankEntry_port (b i : Nat) (v : DWord) : (setBankEntry s b i v).port = s.port := rfl

/-! ## runKeyScheduler -/

@[simp] theorem runKeyScheduler_kbuf : (runKeyScheduler s).kbuf = s.kbuf := by simp only [runKeyScheduler]
@[simp] theorem runKeyScheduler_kcount : (runKeyScheduler s).kcount = s.kcount := by simp only [runKeyScheduler]
@[simp] theorem runKeyScheduler_fin : (runKeyScheduler s).fin = s.fin := by simp only [runKeyScheduler]
@[simp] theorem runKeyScheduler_salt : (runKeyScheduler s).salt = s.salt := by simp only [runKeyScheduler]
@[simp] theorem runKeyScheduler_saltv : (runKeyScheduler s).saltv = s.saltv := by simp only [runKeyScheduler]
@[simp] theorem runKeyScheduler_mask : (runKeyScheduler s).mask = s.mask := by simp only [runKeyScheduler]
@[simp] theorem runKeyScheduler_bank : (runKeyScheduler s).bank = s.bank := by simp only [runKeyScheduler]
@[simp] theorem runKeyScheduler_ks : (runKeyScheduler s).ks = scheduleOf s.kbuf := by simp only [runKeyScheduler]
@[simp] theorem runKeyScheduler_l : (runKeyScheduler s).l = s.l := by simp only [runKeyScheduler]
@[simp] theorem runKeyScheduler_r : (runKeyScheduler s).r = s.r := by simp only [runKeyScheduler]
@[simp] theorem runKeyScheduler_out : (runKeyScheduler s).out = s.out := by simp only [runKeyScheduler]
@[simp] theorem runKeyScheduler_outv : (runKeyScheduler s).outv = s.outv := by simp only [runKeyScheduler]
@[simp] theorem runKeyScheduler_err : (runKeyScheduler s).err = s.err := by simp only [runKeyScheduler]
@[simp] theorem runKeyScheduler_fatal : (runKeyScheduler s).fatal = s.fatal := by simp only [runKeyScheduler]
@[simp] theorem runKeyScheduler_rdata : (runKeyScheduler s).rdata = s.rdata := by simp only [runKeyScheduler]
@[simp] theorem runKeyScheduler_port : (runKeyScheduler s).port = s.port := by simp only [runKeyScheduler]

/-! ## storeSalt -/

@[simp] theorem storeSalt_kbuf (c0 c1 : Byte) : (storeSalt s c0 c1).kbuf = s.kbuf := rfl
@[simp] theorem storeSalt_kcount (c0 c1 : Byte) : (storeSalt s c0 c1).kcount = s.kcount := rfl
@[simp] theorem storeSalt_fin (c0 c1 : Byte) : (storeSalt s c0 c1).fin = s.fin := rfl
@[simp] theorem storeSalt_salt (c0 c1 : Byte) : (storeSalt s c0 c1).salt = #v[c0, c1] := rfl
@[simp] theorem storeSalt_saltv (c0 c1 : Byte) : (storeSalt s c0 c1).saltv = true := rfl
@[simp] theorem storeSalt_mask (c0 c1 : Byte) : (storeSalt s c0 c1).mask = s.mask := rfl
@[simp] theorem storeSalt_bank (c0 c1 : Byte) : (storeSalt s c0 c1).bank = s.bank := rfl
@[simp] theorem storeSalt_ks (c0 c1 : Byte) : (storeSalt s c0 c1).ks = s.ks := rfl
@[simp] theorem storeSalt_l (c0 c1 : Byte) : (storeSalt s c0 c1).l = s.l := rfl
@[simp] theorem storeSalt_r (c0 c1 : Byte) : (storeSalt s c0 c1).r = s.r := rfl
@[simp] theorem storeSalt_out (c0 c1 : Byte) : (storeSalt s c0 c1).out = s.out := rfl
@[simp] theorem storeSalt_outv (c0 c1 : Byte) : (storeSalt s c0 c1).outv = s.outv := rfl
@[simp] theorem storeSalt_err (c0 c1 : Byte) : (storeSalt s c0 c1).err = s.err := rfl
@[simp] theorem storeSalt_fatal (c0 c1 : Byte) : (storeSalt s c0 c1).fatal = s.fatal := rfl
@[simp] theorem storeSalt_rdata (c0 c1 : Byte) : (storeSalt s c0 c1).rdata = s.rdata := rfl
@[simp] theorem storeSalt_port (c0 c1 : Byte) : (storeSalt s c0 c1).port = s.port := rfl

/-! ## setHalves -/

@[simp] theorem setHalves_kbuf (lr : DWord × DWord) : (setHalves s lr).kbuf = s.kbuf := rfl
@[simp] theorem setHalves_kcount (lr : DWord × DWord) : (setHalves s lr).kcount = s.kcount := rfl
@[simp] theorem setHalves_fin (lr : DWord × DWord) : (setHalves s lr).fin = s.fin := rfl
@[simp] theorem setHalves_salt (lr : DWord × DWord) : (setHalves s lr).salt = s.salt := rfl
@[simp] theorem setHalves_saltv (lr : DWord × DWord) : (setHalves s lr).saltv = s.saltv := rfl
@[simp] theorem setHalves_mask (lr : DWord × DWord) : (setHalves s lr).mask = s.mask := rfl
@[simp] theorem setHalves_bank (lr : DWord × DWord) : (setHalves s lr).bank = s.bank := rfl
@[simp] theorem setHalves_ks (lr : DWord × DWord) : (setHalves s lr).ks = s.ks := rfl
@[simp] theorem setHalves_l (lr : DWord × DWord) : (setHalves s lr).l = lr.1 := rfl
@[simp] theorem setHalves_r (lr : DWord × DWord) : (setHalves s lr).r = lr.2 := rfl
@[simp] theorem setHalves_out (lr : DWord × DWord) : (setHalves s lr).out = s.out := rfl
@[simp] theorem setHalves_outv (lr : DWord × DWord) : (setHalves s lr).outv = s.outv := rfl
@[simp] theorem setHalves_err (lr : DWord × DWord) : (setHalves s lr).err = s.err := rfl
@[simp] theorem setHalves_fatal (lr : DWord × DWord) : (setHalves s lr).fatal = s.fatal := rfl
@[simp] theorem setHalves_rdata (lr : DWord × DWord) : (setHalves s lr).rdata = s.rdata := rfl
@[simp] theorem setHalves_port (lr : DWord × DWord) : (setHalves s lr).port = s.port := rfl

/-! ## runOutputEncoder -/

@[simp] theorem runOutputEncoder_kbuf : (runOutputEncoder s).kbuf = s.kbuf := rfl
@[simp] theorem runOutputEncoder_kcount : (runOutputEncoder s).kcount = s.kcount := rfl
@[simp] theorem runOutputEncoder_fin : (runOutputEncoder s).fin = s.fin := rfl
@[simp] theorem runOutputEncoder_salt : (runOutputEncoder s).salt = s.salt := rfl
@[simp] theorem runOutputEncoder_saltv : (runOutputEncoder s).saltv = s.saltv := rfl
@[simp] theorem runOutputEncoder_mask : (runOutputEncoder s).mask = s.mask := rfl
@[simp] theorem runOutputEncoder_bank : (runOutputEncoder s).bank = s.bank := rfl
@[simp] theorem runOutputEncoder_ks : (runOutputEncoder s).ks = s.ks := rfl
@[simp] theorem runOutputEncoder_l : (runOutputEncoder s).l = s.l := rfl
@[simp] theorem runOutputEncoder_r : (runOutputEncoder s).r = s.r := rfl
@[simp] theorem runOutputEncoder_out : (runOutputEncoder s).out = outputString s.salt (finalBlock s.mask s.l s.r) := rfl
@[simp] theorem runOutputEncoder_outv : (runOutputEncoder s).outv = true := rfl
@[simp] theorem runOutputEncoder_err : (runOutputEncoder s).err = s.err := rfl
@[simp] theorem runOutputEncoder_fatal : (runOutputEncoder s).fatal = s.fatal := rfl
@[simp] theorem runOutputEncoder_rdata : (runOutputEncoder s).rdata = s.rdata := rfl
@[simp] theorem runOutputEncoder_port : (runOutputEncoder s).port = s.port := rfl

/-! ## finalize -/

@[simp] theorem finalize_kbuf : (finalize s).kbuf = s.kbuf := rfl
@[simp] theorem finalize_kcount : (finalize s).kcount = s.kcount := rfl
@[simp] theorem finalize_fin : (finalize s).fin = true := rfl
@[simp] theorem finalize_salt : (finalize s).salt = s.salt := rfl
@[simp] theorem finalize_saltv : (finalize s).saltv = s.saltv := rfl
@[simp] theorem finalize_mask : (finalize s).mask = s.mask := rfl
@[simp] theorem finalize_bank : (finalize s).bank = s.bank := rfl
@[simp] theorem finalize_ks : (finalize s).ks = s.ks := rfl
@[simp] theorem finalize_l : (finalize s).l = s.l := rfl
@[simp] theorem finalize_r : (finalize s).r = s.r := rfl
@[simp] theorem finalize_out : (finalize s).out = s.out := rfl
@[simp] theorem finalize_outv : (finalize s).outv = s.outv := rfl
@[simp] theorem finalize_err : (finalize s).err = s.err := rfl
@[simp] theorem finalize_fatal : (finalize s).fatal = s.fatal := rfl
@[simp] theorem finalize_rdata : (finalize s).rdata = s.rdata := rfl
@[simp] theorem finalize_port : (finalize s).port = s.port := rfl

/-! ## clearContext -/

@[simp] theorem clearContext_kbuf : (clearContext s).kbuf = State.reset.kbuf := rfl
@[simp] theorem clearContext_kcount : (clearContext s).kcount = 0 := rfl
@[simp] theorem clearContext_fin : (clearContext s).fin = false := rfl
@[simp] theorem clearContext_salt : (clearContext s).salt = State.reset.salt := rfl
@[simp] theorem clearContext_saltv : (clearContext s).saltv = false := rfl
@[simp] theorem clearContext_mask : (clearContext s).mask = s.mask := rfl
@[simp] theorem clearContext_bank : (clearContext s).bank = s.bank := rfl
@[simp] theorem clearContext_ks : (clearContext s).ks = State.reset.ks := rfl
@[simp] theorem clearContext_l : (clearContext s).l = 0 := rfl
@[simp] theorem clearContext_r : (clearContext s).r = 0 := rfl
@[simp] theorem clearContext_out : (clearContext s).out = State.reset.out := rfl
@[simp] theorem clearContext_outv : (clearContext s).outv = false := rfl
@[simp] theorem clearContext_err : (clearContext s).err = s.err := rfl
@[simp] theorem clearContext_fatal : (clearContext s).fatal = s.fatal := rfl
@[simp] theorem clearContext_rdata : (clearContext s).rdata = 0 := rfl
@[simp] theorem clearContext_port : (clearContext s).port = s.port := rfl

/-! ## hardwareReset -/

@[simp] theorem hardwareReset_kbuf : (hardwareReset s).kbuf = State.reset.kbuf := by simp only [hardwareReset]
@[simp] theorem hardwareReset_kcount : (hardwareReset s).kcount = State.reset.kcount := by simp only [hardwareReset]
@[simp] theorem hardwareReset_fin : (hardwareReset s).fin = State.reset.fin := by simp only [hardwareReset]
@[simp] theorem hardwareReset_salt : (hardwareReset s).salt = State.reset.salt := by simp only [hardwareReset]
@[simp] theorem hardwareReset_saltv : (hardwareReset s).saltv = State.reset.saltv := by simp only [hardwareReset]
@[simp] theorem hardwareReset_mask : (hardwareReset s).mask = State.reset.mask := by simp only [hardwareReset]
@[simp] theorem hardwareReset_bank : (hardwareReset s).bank = State.reset.bank := by simp only [hardwareReset]
@[simp] theorem hardwareReset_ks : (hardwareReset s).ks = State.reset.ks := by simp only [hardwareReset]
@[simp] theorem hardwareReset_l : (hardwareReset s).l = State.reset.l := by simp only [hardwareReset]
@[simp] theorem hardwareReset_r : (hardwareReset s).r = State.reset.r := by simp only [hardwareReset]
@[simp] theorem hardwareReset_out : (hardwareReset s).out = State.reset.out := by simp only [hardwareReset]
@[simp] theorem hardwareReset_outv : (hardwareReset s).outv = State.reset.outv := by simp only [hardwareReset]
@[simp] theorem hardwareReset_err : (hardwareReset s).err = State.reset.err := by simp only [hardwareReset]
@[simp] theorem hardwareReset_fatal : (hardwareReset s).fatal = State.reset.fatal := by simp only [hardwareReset]
@[simp] theorem hardwareReset_rdata : (hardwareReset s).rdata = State.reset.rdata := by simp only [hardwareReset]
@[simp] theorem hardwareReset_port : (hardwareReset s).port = s.port := rfl

/-! ## pushPort -/

@[simp] theorem pushPort_kbuf (ev : PortEvent) : (pushPort s ev).kbuf = s.kbuf := rfl
@[simp] theorem pushPort_kcount (ev : PortEvent) : (pushPort s ev).kcount = s.kcount := rfl
@[simp] theorem pushPort_fin (ev : PortEvent) : (pushPort s ev).fin = s.fin := rfl
@[simp] theorem pushPort_salt (ev : PortEvent) : (pushPort s ev).salt = s.salt := rfl
@[simp] theorem pushPort_saltv (ev : PortEvent) : (pushPort s ev).saltv = s.saltv := rfl
@[simp] theorem pushPort_mask (ev : PortEvent) : (pushPort s ev).mask = s.mask := rfl
@[simp] theorem pushPort_bank (ev : PortEvent) : (pushPort s ev).bank = s.bank := rfl
@[simp] theorem pushPort_ks (ev : PortEvent) : (pushPort s ev).ks = s.ks := rfl
@[simp] theorem pushPort_l (ev : PortEvent) : (pushPort s ev).l = s.l := rfl
@[simp] theorem pushPort_r (ev : PortEvent) : (pushPort s ev).r = s.r := rfl
@[simp] theorem pushPort_out (ev : PortEvent) : (pushPort s ev).out = s.out := rfl
@[simp] theorem pushPort_outv (ev : PortEvent) : (pushPort s ev).outv = s.outv := rfl
@[simp] theorem pushPort_err (ev : PortEvent) : (pushPort s ev).err = s.err := rfl
@[simp] theorem pushPort_fatal (ev : PortEvent) : (pushPort s ev).fatal = s.fatal := rfl
@[simp] theorem pushPort_rdata (ev : PortEvent) : (pushPort s ev).rdata = s.rdata := rfl
@[simp] theorem pushPort_port (ev : PortEvent) : (pushPort s ev).port = ev :: s.port := rfl

/-! ## queuePort -/

@[simp] theorem queuePort_kbuf (ev : PortEvent) : (queuePort s ev).kbuf = s.kbuf := rfl
@[simp] theorem queuePort_kcount (ev : PortEvent) : (queuePort s ev).kcount = s.kcount := rfl
@[simp] theorem queuePort_fin (ev : PortEvent) : (queuePort s ev).fin = s.fin := rfl
@[simp] theorem queuePort_salt (ev : PortEvent) : (queuePort s ev).salt = s.salt := rfl
@[simp] theorem queuePort_saltv (ev : PortEvent) : (queuePort s ev).saltv = s.saltv := rfl
@[simp] theorem queuePort_mask (ev : PortEvent) : (queuePort s ev).mask = s.mask := rfl
@[simp] theorem queuePort_bank (ev : PortEvent) : (queuePort s ev).bank = s.bank := rfl
@[simp] theorem queuePort_ks (ev : PortEvent) : (queuePort s ev).ks = s.ks := rfl
@[simp] theorem queuePort_l (ev : PortEvent) : (queuePort s ev).l = s.l := rfl
@[simp] theorem queuePort_r (ev : PortEvent) : (queuePort s ev).r = s.r := rfl
@[simp] theorem queuePort_out (ev : PortEvent) : (queuePort s ev).out = s.out := rfl
@[simp] theorem queuePort_outv (ev : PortEvent) : (queuePort s ev).outv = s.outv := rfl
@[simp] theorem queuePort_err (ev : PortEvent) : (queuePort s ev).err = s.err := rfl
@[simp] theorem queuePort_fatal (ev : PortEvent) : (queuePort s ev).fatal = s.fatal := rfl
@[simp] theorem queuePort_rdata (ev : PortEvent) : (queuePort s ev).rdata = s.rdata := rfl
@[simp] theorem queuePort_port (ev : PortEvent) : (queuePort s ev).port = s.port ++ [ev] := rfl

/-! ## The reset state -/

@[simp] theorem reset_kcount : State.reset.kcount = 0 := rfl
@[simp] theorem reset_fin : State.reset.fin = false := rfl
@[simp] theorem reset_saltv : State.reset.saltv = false := rfl
@[simp] theorem reset_mask : State.reset.mask = 0 := rfl
@[simp] theorem reset_bank : State.reset.bank = [] := rfl
@[simp] theorem reset_l : State.reset.l = 0 := rfl
@[simp] theorem reset_r : State.reset.r = 0 := rfl
@[simp] theorem reset_outv : State.reset.outv = false := rfl
@[simp] theorem reset_err : State.reset.err = 0 := rfl
@[simp] theorem reset_fatal : State.reset.fatal = false := rfl
@[simp] theorem reset_rdata : State.reset.rdata = 0 := rfl
@[simp] theorem reset_port : State.reset.port = [] := rfl

theorem reset_kbuf (k : Nat) (h : k < 8) : State.reset.kbuf[k] = 0 := by
  interval_cases k <;> rfl

theorem reset_ks (k : Nat) (h : k < 16) : State.reset.ks[k] = 0 := by
  interval_cases k <;> rfl

theorem reset_salt (k : Nat) (h : k < 2) : State.reset.salt[k] = 0 := by
  interval_cases k <;> rfl

theorem reset_out (k : Nat) (h : k < 13) : State.reset.out[k] = 0 := by
  interval_cases k <;> rfl

/-- Two states are equal when every field is. -/
theorem state_ext {s t : State} (kbuf : s.kbuf = t.kbuf) (kcount : s.kcount = t.kcount) (fin : s.fin = t.fin)
    (salt : s.salt = t.salt) (saltv : s.saltv = t.saltv) (mask : s.mask = t.mask) (bank : s.bank = t.bank)
    (ks : s.ks = t.ks) (l : s.l = t.l) (r : s.r = t.r) (out : s.out = t.out) (outv : s.outv = t.outv)
    (err : s.err = t.err) (fatal : s.fatal = t.fatal) (rdata : s.rdata = t.rdata) (port : s.port = t.port) :
    s = t := by
  cases s; cases t; simp_all

end Sys2Proof.Machine
end

