-- ==== Sys2Proof/Laws/Tables.lean ====
section
/-!
SUPPORT. What a table lookup answers in the table's range, and the bits of a scattered entry.
-/
namespace Sys2Proof.Machine

theorem getElem?_tabulate {α : Type} {n i : Nat} (f : Nat → α) (h : i < n) : (tabulate n f)[i]? = some (f i) := by
  simp [tabulate, h]

/-- An entry has bit `p` exactly if some bit that hits its index has an output mask with bit `p`. -/
theorem getLsbD_scatter {w : Nat} (bits : List Nat) (hit : Nat → Bool) (out : Nat → BitVec w) (p : Nat) :
    (scatter bits hit out).getLsbD p = bits.any fun b => hit b && (out b).getLsbD p := by
  have aux : ∀ acc : BitVec w,
      (bits.foldl (fun acc bit => if hit bit then acc ||| out bit else acc) acc).getLsbD p
        = (acc.getLsbD p || bits.any fun b => hit b && (out b).getLsbD p) := by
    induction bits with
    | nil => simp
    | cons b bs ih =>
      intro acc
      rw [List.foldl_cons, ih, List.any_cons]
      cases hit b <;> simp [Bool.or_assoc]
  simpa [scatter] using aux 0

theorem pc1t_eq {k h : Nat} (j : BitVec 7) (hk : k < 8) (hh : h < 2) : pc1t k h j = pc1Entry k h j.toNat := by
  simp [pc1t, pc1Table, getElem?_tabulate, hk, hh, j.isLt]

theorem pc2t_eq {q : Nat} (j : BitVec 7) (hq : q < 8) : pc2t q j = pc2Entry q j.toNat := by
  simp [pc2t, pc2Table, getElem?_tabulate, hq, j.isLt]

theorem ept_eq {y w : Nat} (j : Byte) (hy : y < 4) (hw : w < 2) : ept y j w = eptEntry y j.toNat w := by
  simp [ept, eptTable, getElem?_tabulate, hy, hw, j.isLt]

theorem eInv_eq {h : Nat} (hh : h < 64) : eInv h = eInvEntry h := by
  simp [eInv, eInvTable, getElem?_tabulate, hh]

theorem efp_eq {g o : Nat} (v : BitVec 6) (hg : g < 16) (ho : o < 2) : efp g v o = efpEntry g v.toNat o := by
  simp [efp, efpTable, getElem?_tabulate, hg, ho, v.isLt]

theorem base_eq {b i : Nat} (hb : b < 4) (hi : i < 4096) : base b i = baseEntry b (i / 64) (i % 64) := by
  have h1 : i / 64 < 64 := by omega
  have h2 : i % 64 < 64 := by omega
  simp [base, baseTable, getElem?_tabulate, hb, h1, h2]

end Sys2Proof.Machine
end

