-- ==== Sys2Proof/Laws/Memory.lean ====
section
/-!
SUPPORT. The bank memory: SHUF1, read after write, what a swap of every entry leaves, and that every operation keeps
the canonical form.
-/
namespace Sys2Proof.Machine

/-! ## SHUF1 -/

theorem getLsbD_append32 (u v : Word) (p : Nat) :
    (u ++ v : DWord).getLsbD p = if p < 32 then v.getLsbD p else u.getLsbD (p - 32) := by
  rw [BitVec.getLsbD_append]

/-- SHUF1 bit by bit: where the mask has a 1 the two quarter-words exchange their bit. -/
theorem getLsbD_shuf1 (x : DWord) (m : Word) {p : Nat} (hp : p < 64) :
    (shuf1 x m).getLsbD p = if m.getLsbD (p % 32) then x.getLsbD ((p + 32) % 64) else x.getLsbD p := by
  unfold shuf1
  rw [BitVec.getLsbD_xor, getLsbD_append32]
  by_cases h : p < 32
  · have e1 : p % 32 = p := Nat.mod_eq_of_lt h
    have e2 : (p + 32) % 64 = 32 + p := by omega
    simp only [h, if_true, e1, e2, BitVec.getLsbD_and, BitVec.getLsbD_xor, BitVec.getLsbD_extractLsb', Nat.zero_add]
    cases m.getLsbD p <;> cases x.getLsbD p <;> simp
  · have e1 : p % 32 = p - 32 := by omega
    have e2 : (p + 32) % 64 = p - 32 := by omega
    have e3 : p - 32 < 32 := by omega
    have e4 : 32 + (p - 32) = p := by omega
    simp only [h, if_false, e1, e2, BitVec.getLsbD_and, BitVec.getLsbD_xor, BitVec.getLsbD_extractLsb', Nat.zero_add, e4]
    cases m.getLsbD (p - 32) <;> cases x.getLsbD p <;> simp [e3]

theorem shuf1_shuf1 (x : DWord) (a b : Word) : shuf1 (shuf1 x a) b = shuf1 x (a ^^^ b) := by
  apply BitVec.eq_of_getLsbD_eq
  intro p hp
  have h1 : (p + 32) % 64 < 64 := Nat.mod_lt _ (by decide)
  have h2 : (p + 32) % 64 % 32 = p % 32 := by omega
  have h3 : ((p + 32) % 64 + 32) % 64 = p := by omega
  rw [getLsbD_shuf1 _ _ hp, getLsbD_shuf1 _ _ h1, getLsbD_shuf1 _ _ hp, getLsbD_shuf1 _ _ hp, h2, h3,
    BitVec.getLsbD_xor]
  cases a.getLsbD (p % 32) <;> cases b.getLsbD (p % 32) <;> simp

@[simp] theorem shuf1_zero (x : DWord) : shuf1 x 0#32 = x := by simp [shuf1]

theorem shuf1_self (x : DWord) (m : Word) : shuf1 (shuf1 x m) m = x := by
  rw [shuf1_shuf1, BitVec.xor_self]; exact shuf1_zero x

theorem shuf1_xor (x y : DWord) (m : Word) : shuf1 (x ^^^ y) m = shuf1 x m ^^^ shuf1 y m := by
  apply BitVec.eq_of_getLsbD_eq
  intro p hp
  simp only [getLsbD_shuf1 _ _ hp, BitVec.getLsbD_xor]
  split <;> rfl

/-! ## Bytes of an entry -/

theorem getLsbD_byteOf (x : DWord) (k p : Nat) :
    (byteOf x k).getLsbD p = (decide (p < 8) && x.getLsbD (8 * (7 - k) + p)) := by
  simp [byteOf, BitVec.getLsbD_extractLsb']

theorem byteOf_setByte (x : DWord) (v : Byte) {j k : Nat} (hj : j < 8) (hk : k < 8) :
    byteOf (setByte x k v) j = if j = k then v else byteOf x j := by
  apply BitVec.eq_of_getLsbD_eq
  intro p hp
  have hff : ∀ q, (0xFF#64).getLsbD q = decide (q < 8) := by
    intro q
    by_cases hq : q < 64
    · revert q; decide
    · rw [BitVec.getLsbD_of_ge _ _ (by omega)]; simp; omega
  have hlt : 8 * (7 - j) + p < 64 := by omega
  by_cases e : j = k
  · subst e
    have h2 : 8 * (7 - j) + p - 8 * (7 - j) = p := by omega
    simp only [getLsbD_byteOf, setByte, BitVec.getLsbD_or, BitVec.getLsbD_and, BitVec.getLsbD_not,
      BitVec.getLsbD_shiftLeft, BitVec.getLsbD_setWidth, hff, h2]
    have h64 : p < 64 := by omega
    simp [hp, hlt, h64]
  · have hd : 8 * (7 - j) + p < 8 * (7 - k) ∨ 8 * (7 - k) + 8 ≤ 8 * (7 - j) + p := by omega
    rcases hd with hd | hd
    · simp only [getLsbD_byteOf, setByte, BitVec.getLsbD_or, BitVec.getLsbD_and, BitVec.getLsbD_not,
        BitVec.getLsbD_shiftLeft, BitVec.getLsbD_setWidth, hff, if_neg e]
      simp [hp, hlt, hd]
    · have h3 : ¬ 8 * (7 - j) + p < 8 * (7 - k) := by omega
      have h4 : 8 ≤ 8 * (7 - j) + p - 8 * (7 - k) := by omega
      have h5 : ¬ (8 * (7 - j) + p - 8 * (7 - k) < 8) := by omega
      simp only [getLsbD_byteOf, setByte, BitVec.getLsbD_or, BitVec.getLsbD_and, BitVec.getLsbD_not,
        BitVec.getLsbD_shiftLeft, BitVec.getLsbD_setWidth, hff, if_neg e, BitVec.getLsbD_of_ge v _ h4]
      simp [hp, hlt, h3, h5]

/-- An entry is its eight bytes. -/
theorem eq_of_byteOf_eq {x y : DWord} (h : ∀ k < 8, byteOf x k = byteOf y k) : x = y := by
  apply BitVec.eq_of_getLsbD_eq
  intro p hp
  have hk := congrArg (fun b => b.getLsbD (p % 8)) (h (7 - p / 8) (by omega))
  have e : 8 * (7 - (7 - p / 8)) + p % 8 = p := by omega
  have e2 : p % 8 < 8 := Nat.mod_lt _ (by decide)
  simp only [getLsbD_byteOf, e, e2, decide_true, Bool.true_and] at hk
  exact hk

/-! ## Cells by offset -/

theorem lookup_filter_key (m : List Host.Cell) (p : Nat → Bool) (a : Nat) :
    (m.filter fun c => p c.1).lookup a = if p a then m.lookup a else none := by
  induction m with
  | nil => simp
  | cons c m ih =>
    obtain ⟨b, v⟩ := c
    by_cases hp : p b
    · rw [List.filter_cons_of_pos (by simpa using hp), List.lookup_cons, List.lookup_cons, ih]
      by_cases e : a = b
      · subst e; simp [hp]
      · simp [beq_eq_false_iff_ne.mpr e]
    · rw [List.filter_cons_of_neg (by simpa using hp), List.lookup_cons, ih]
      by_cases e : a = b
      · subst e; simp [hp]
      · simp [beq_eq_false_iff_ne.mpr e]

theorem lookup_append (m n : List Host.Cell) (a : Nat) :
    (m ++ n).lookup a = (m.lookup a).or (n.lookup a) := by
  induction m with
  | nil => simp
  | cons c m ih =>
    obtain ⟨b, v⟩ := c
    rw [List.cons_append, List.lookup_cons, List.lookup_cons, ih]
    by_cases e : a = b
    · subst e; simp
    · simp [beq_eq_false_iff_ne.mpr e]

theorem lookup_entryCells (mask : Word) (e : Nat) (x : DWord) (a : Nat) :
    (entryCells mask e x).lookup a =
      if a / 8 = e ∧ byteOf x (a % 8) ≠ unlistedByte mask a then some (byteOf x (a % 8)) else none := by
  have aux : ∀ ks : List Nat, (∀ k ∈ ks, k < 8) →
      (ks.filterMap fun k =>
        if byteOf x k = unlistedByte mask (8 * e + k) then none else some (8 * e + k, byteOf x k)).lookup a =
      if a / 8 = e ∧ a % 8 ∈ ks ∧ byteOf x (a % 8) ≠ unlistedByte mask a then some (byteOf x (a % 8)) else none := by
    intro ks
    induction ks with
    | nil => simp
    | cons k ks ih =>
      intro hks
      have hk : k < 8 := hks k (by simp)
      have ih := ih (fun j hj => hks j (by simp [hj]))
      by_cases hu : byteOf x k = unlistedByte mask (8 * e + k)
      · rw [List.filterMap_cons_none (by simp [hu]), ih]
        by_cases ha : a / 8 = e ∧ a % 8 = k
        · have e1 : 8 * e + k = a := by omega
          rw [e1] at hu
          simp [ha.2, hu]
        · have : ¬ (a / 8 = e ∧ a % 8 = k) := ha
          by_cases h8 : a / 8 = e
          · have : a % 8 ≠ k := fun h => ha ⟨h8, h⟩
            simp [h8, this]
          · simp [h8]
      · rw [List.filterMap_cons_some (by simp [hu]; rfl), List.lookup_cons, ih]
        by_cases ha : a = 8 * e + k
        · have e1 : a / 8 = e := by omega
          have e2 : a % 8 = k := by omega
          rw [← ha] at hu
          simp [ha.symm, e1, e2, hu]
        · have hne : (a == 8 * e + k) = false := beq_eq_false_iff_ne.mpr ha
          by_cases h8 : a / 8 = e
          · have : a % 8 ≠ k := by omega
            simp [hne, h8, this]
          · simp [hne, h8]
  have h := aux (List.range 8) (by simp)
  have h8 : a % 8 ∈ List.range 8 := by simp; omega
  simpa [entryCells, h8] using h

theorem lookup_writeEntry (mask : Word) (m : List Host.Cell) (e : Nat) (x : DWord) (a : Nat) :
    (writeEntry mask m e x).lookup a =
      if a / 8 = e then (if byteOf x (a % 8) ≠ unlistedByte mask a then some (byteOf x (a % 8)) else none)
      else m.lookup a := by
  have l1 := lookup_filter_key m (fun b => decide (b < 8 * e)) a
  have l2 := lookup_filter_key m (fun b => decide (8 * e + 8 ≤ b)) a
  rw [writeEntry, lookup_append, lookup_append, lookup_entryCells, l1, l2]
  by_cases h : a / 8 = e
  · have h1 : ¬ a < 8 * e := by omega
    have h2 : ¬ 8 * e + 8 ≤ a := by omega
    simp [h, h1, h2]
  · by_cases h1 : a < 8 * e
    · have h2 : ¬ 8 * e + 8 ≤ a := by omega
      simp [h, h1, h2]
    · have h2 : 8 * e + 8 ≤ a := by omega
      simp [h, h1, h2]

/-! ## Bytes and entries read -/

/-- An entry's bytes are the bytes read at its eight offsets. -/
theorem byteOf_readEntry (mask : Word) (m : List Host.Cell) (e : Nat) {k : Nat} (hk : k < 8) :
    byteOf (readEntry mask m e) k = readByte mask m (8 * e + k) := by
  have h1 : (8 * e + k) / 8 = e := by omega
  have h2 : (8 * e + k) % 8 = k := by omega
  induction m with
  | nil => simp [readEntry, readByte, unlistedByte, h1, h2]
  | cons c m ih =>
    obtain ⟨a, v⟩ := c
    simp only [readByte, readEntry, List.lookup_cons] at ih ⊢
    by_cases he : a / 8 = e
    · rw [List.filter_cons_of_pos (by simpa using he), List.foldr_cons,
        byteOf_setByte _ _ hk (Nat.mod_lt _ (by decide)), ih]
      by_cases ha : k = a % 8
      · have hb : (8 * e + k == a) = true := by simp; omega
        rw [hb, if_pos ha]
        rfl
      · have : (8 * e + k == a) = false := beq_eq_false_iff_ne.mpr (by omega)
        simp [this, ha]
    · have : (8 * e + k == a) = false := beq_eq_false_iff_ne.mpr (by omega)
      rw [List.filter_cons_of_neg (by simpa using he), ih]
      simp [this]

theorem readByte_writeEntry (mask : Word) (m : List Host.Cell) (e : Nat) (x : DWord) (a : Nat) :
    readByte mask (writeEntry mask m e x) a = if a / 8 = e then byteOf x (a % 8) else readByte mask m a := by
  rw [readByte, lookup_writeEntry]
  by_cases h : a / 8 = e
  · by_cases hu : byteOf x (a % 8) = unlistedByte mask a <;> simp [h, hu]
  · simp [h, readByte]

/-- Read after write, and a write leaves every other entry alone. -/
theorem readEntry_writeEntry (mask : Word) (m : List Host.Cell) (e : Nat) (x : DWord) (e' : Nat) :
    readEntry mask (writeEntry mask m e x) e' = if e' = e then x else readEntry mask m e' := by
  apply eq_of_byteOf_eq
  intro k hk
  have h1 : (8 * e' + k) / 8 = e' := by omega
  have h2 : (8 * e' + k) % 8 = k := by omega
  rw [byteOf_readEntry _ _ _ hk, readByte_writeEntry, h1, h2]
  by_cases h : e' = e
  · simp [h]
  · simp [h, byteOf_readEntry _ _ _ hk]

theorem readEntry_nil (mask : Word) (e : Nat) : readEntry mask [] e = unlistedEntry mask e := rfl

theorem readEntry_of_not_listed (mask : Word) (m : List Host.Cell) (e : Nat)
    (h : e ∉ m.map fun c => c.1 / 8) : readEntry mask m e = unlistedEntry mask e := by
  have : (m.filter fun c => c.1 / 8 = e) = [] := by
    rw [List.filter_eq_nil_iff]
    intro c hc
    simp only [decide_eq_true_eq]
    intro hce
    exact h (List.mem_map.mpr ⟨c, hc, hce⟩)
  simp [readEntry, this]

theorem readEntry_foldl_writeEntry (mask : Word) (g : Nat → DWord) (es : List Nat) (m : List Host.Cell) (e : Nat) :
    readEntry mask (es.foldl (fun m' e => writeEntry mask m' e (g e)) m) e =
      if e ∈ es then g e else readEntry mask m e := by
  induction es generalizing m with
  | nil => simp
  | cons a es ih =>
    rw [List.foldl_cons, ih, readEntry_writeEntry]
    by_cases h : e = a
    · subst h; simp
    · simp [h]

/-- After a swap every entry is SHUF1 of what it was (42_salt.md R204). -/
theorem readEntry_swapCells (mask : Word) (m : List Host.Cell) (delta : Word) (e : Nat) :
    readEntry (mask ^^^ delta) (swapCells mask m delta) e = shuf1 (readEntry mask m e) delta := by
  rw [swapCells, readEntry_foldl_writeEntry (mask ^^^ delta) (fun e => shuf1 (readEntry mask m e) delta)]
  split
  · rfl
  · rename_i h
    rw [readEntry_of_not_listed mask m e h, readEntry_nil, unlistedEntry, unlistedEntry, shuf1_shuf1]

/-! ## The banks of a state -/

theorem bankEntry_swapBanks (s : State) (delta : Word) (b i : Nat) :
    bankEntry (swapBanks s delta) b i = shuf1 (bankEntry s b i) delta :=
  readEntry_swapCells s.mask s.bank delta (4096 * b + i)

theorem bankEntry_initBanks (s : State) {b i : Nat} (hi : i < 4096) :
    bankEntry (initBanks s) b i = base b i := by
  have h1 : (4096 * b + i) / 4096 = b := by omega
  have h2 : (4096 * b + i) % 4096 = i := by omega
  simp [bankEntry, readEntry, unlistedEntry, h1, h2]

theorem bankEntry_setBankEntry (s : State) (v : DWord) {b i b' i' : Nat} (hi : i < 4096) (hi' : i' < 4096) :
    bankEntry (setBankEntry s b i v) b' i' = if b' = b ∧ i' = i then v else bankEntry s b' i' := by
  have e : (4096 * b' + i' = 4096 * b + i) ↔ (b' = b ∧ i' = i) := by omega
  simp [bankEntry, setBankEntry, readEntry_writeEntry, e]

/-- The bytes of the bank offset space are the bytes of the entries (20_memory.md R71). -/
theorem bankByte_eq (s : State) {b i k : Nat} (hk : k < 8) :
    bankByte s (0x8000 * b + 8 * i + k) = byteOf (bankEntry s b i) k := by
  have e : 0x8000 * b + 8 * i + k = 8 * (4096 * b + i) + k := by omega
  rw [e, bankByte, bankEntry, byteOf_readEntry _ _ _ hk]

/-- An entry with the same cells and mask is the same entry. -/
theorem bankEntry_congr {s t : State} (hb : t.bank = s.bank) (hm : t.mask = s.mask) (b i : Nat) :
    bankEntry t b i = bankEntry s b i := by
  rw [bankEntry, bankEntry, hb, hm]

theorem bankByte_congr {s t : State} (hb : t.bank = s.bank) (hm : t.mask = s.mask) (a : Nat) :
    bankByte t a = bankByte s a := by
  rw [bankByte, bankByte, hb, hm]

/-! ## The canonical form -/

theorem mem_entryCells {mask : Word} {e : Nat} {x : DWord} {c : Host.Cell} (h : c ∈ entryCells mask e x) :
    c.1 / 8 = e ∧ c.2 ≠ unlistedByte mask c.1 := by
  simp only [entryCells, List.mem_filterMap, List.mem_range] at h
  obtain ⟨k, hk, h⟩ := h
  split at h
  · simp at h
  · rename_i hu
    obtain rfl : (8 * e + k, byteOf x k) = c := by simpa using h
    exact ⟨by show (8 * e + k) / 8 = e; omega, hu⟩

theorem pairwise_entryCells (mask : Word) (e : Nat) (x : DWord) :
    (entryCells mask e x).Pairwise (fun c d => c.1 < d.1) := by
  rw [entryCells, List.pairwise_filterMap]
  refine List.Pairwise.imp ?_ (List.pairwise_lt_range (n := 8))
  intro a b hab c hc d hd
  split at hc
  · simp at hc
  · split at hd
    · simp at hd
    · simp only [Option.some.injEq] at hc hd
      subst hc; subst hd
      show 8 * e + a < 8 * e + b
      omega

theorem memoryWf_nil (mask : Word) : memoryWf mask [] := by simp [memoryWf]

theorem memoryWf_writeEntry {mask : Word} {m : List Host.Cell} {e : Nat} (x : DWord) (h : memoryWf mask m)
    (he : e < 16384) : memoryWf mask (writeEntry mask m e x) := by
  obtain ⟨hs, hc⟩ := h
  refine ⟨?_, ?_⟩
  · rw [writeEntry, List.pairwise_append, List.pairwise_append]
    refine ⟨⟨hs.filter _, pairwise_entryCells mask e x, ?_⟩, hs.filter _, ?_⟩
    · intro a ha b hb
      have h1 := (List.mem_filter.mp ha).2
      have h2 := (mem_entryCells hb).1
      simp only [decide_eq_true_eq] at h1
      omega
    · intro a ha b hb
      have h2 := (List.mem_filter.mp hb).2
      simp only [decide_eq_true_eq] at h2
      rcases List.mem_append.mp ha with ha | ha
      · have h1 := (List.mem_filter.mp ha).2
        simp only [decide_eq_true_eq] at h1
        omega
      · have h1 := (mem_entryCells ha).1
        omega
  · intro c hcm
    rw [writeEntry] at hcm
    rcases List.mem_append.mp hcm with hcm | hcm
    · rcases List.mem_append.mp hcm with hcm | hcm
      · exact hc c (List.mem_filter.mp hcm).1
      · obtain ⟨h1, h2⟩ := mem_entryCells hcm
        refine ⟨?_, h2⟩
        show c.1 < 0x20000
        omega
    · exact hc c (List.mem_filter.mp hcm).1

theorem memoryWf_foldl_writeEntry {mask : Word} (g : Nat → DWord) (es : List Nat) {m : List Host.Cell}
    (h : memoryWf mask m) (hes : ∀ e ∈ es, e < 16384) :
    memoryWf mask (es.foldl (fun m' e => writeEntry mask m' e (g e)) m) := by
  induction es generalizing m with
  | nil => exact h
  | cons a es ih =>
    exact ih (memoryWf_writeEntry _ h (hes a (by simp))) (fun e he => hes e (by simp [he]))

theorem memoryWf_swapCells {mask : Word} {m : List Host.Cell} (delta : Word) (h : memoryWf mask m) :
    memoryWf (mask ^^^ delta) (swapCells mask m delta) := by
  refine memoryWf_foldl_writeEntry (fun e => shuf1 (readEntry mask m e) delta) _ (memoryWf_nil _) ?_
  intro e he
  obtain ⟨c, hc, rfl⟩ := List.mem_map.mp he
  have : c.1 < 0x20000 := (h.2 c hc).1
  show c.1 / 8 < 16384
  omega

theorem memoryWf_swapBanks {s : State} (delta : Word) (h : memoryWf s.mask s.bank) :
    memoryWf (swapBanks s delta).mask (swapBanks s delta).bank :=
  memoryWf_swapCells delta h

theorem memoryWf_initBanks (s : State) : memoryWf (initBanks s).mask (initBanks s).bank := memoryWf_nil _

theorem memoryWf_setBankEntry {s : State} {b i : Nat} (v : DWord) (h : memoryWf s.mask s.bank)
    (hb : b < 4) (hi : i < 4096) : memoryWf (setBankEntry s b i v).mask (setBankEntry s b i v).bank :=
  memoryWf_writeEntry v h (by omega)

theorem memoryWf_reset : memoryWf State.reset.mask State.reset.bank := memoryWf_nil _

/-- A byte offset is some entry's byte; one that some entry lists is listed for it. -/
theorem lookup_isSome_of_mem {m : List Host.Cell} {c : Host.Cell} (h : c ∈ m) : (m.lookup c.1).isSome := by
  induction m with
  | nil => simp at h
  | cons d m ih =>
    obtain ⟨b, v⟩ := d
    rw [List.lookup_cons]
    by_cases e : c.1 = b
    · simp [e]
    · have : c ∈ m := by
        rcases List.mem_cons.mp h with h | h
        · exact absurd (by rw [h]) e
        · exact h
      simp [beq_eq_false_iff_ne.mpr e, ih this]

/-! ## MemRead and MemWrite -/

/-- R74 in one line: an aligned offset below 0x20000 selects entry off % 0x8000 / 8 of bank off / 0x8000, and every
other offset none. -/
theorem locate_eq (off : Nat) :
    locate off = if off < 0x20000 ∧ off % 8 = 0 then some (off / 0x8000, off % 0x8000 / 8) else none := by
  unfold locate bankOf
  split_ifs <;> simp_all <;> omega

theorem memRead_eq (s : State) (off : Nat) :
    memRead s off =
      if off < 0x20000 ∧ off % 8 = 0 then some (bankEntry s (off / 0x8000) (off % 0x8000 / 8)) else none := by
  rw [memRead, locate_eq]
  split_ifs <;> rfl

theorem memWrite_eq (s : State) (off : Nat) (v : DWord) :
    memWrite s off v =
      if off < 0x20000 ∧ off % 8 = 0 then some (setBankEntry s (off / 0x8000) (off % 0x8000 / 8) v) else none := by
  rw [memWrite, locate_eq]
  split_ifs <;> rfl

end Sys2Proof.Machine
end

