-- ==== Sys2Proof/Laws/Ops.lean ====
section
/-!
SUPPORT. One lemma per shared operation that is not a plain record update: the halted check, the SaltPermuter, the
un-swap of RESET, the key buffer, the units of DIGEST.
-/
namespace Sys2Proof.Machine

variable (s : State)

/-! ## The halted check (60_exceptions.md R349) -/

theorem unlessHalted_of_safe {s : State} (done : State) (h : s.fatal = false) : unlessHalted s done = done := by
  simp [unlessHalted, h]

theorem unlessHalted_of_fatal {s : State} (done : State) (h : s.fatal = true) :
    unlessHalted s done = raise .halted s := by
  simp [unlessHalted, h]

/-- It answers the command's own effect or the Halted error, and nothing else. -/
theorem unlessHalted_cases (s done : State) :
    (s.fatal = false ∧ unlessHalted s done = done) ∨ (s.fatal = true ∧ unlessHalted s done = raise .halted s) := by
  cases h : s.fatal
  · exact .inl ⟨rfl, unlessHalted_of_safe done h⟩
  · exact .inr ⟨rfl, unlessHalted_of_fatal done h⟩

/-! ## The SaltPermuter (42_salt.md R204) -/

/-- MASK becomes the salt's mask, whether or not the memo hit. -/
@[simp] theorem applySalt_mask : (applySalt s).mask = saltMask s.salt[0] s.salt[1] := by
  unfold applySalt
  split
  · rename_i h; exact h.symm
  · simp

/-- Every entry is swapped by the XOR of the old mask and the new. -/
theorem bankEntry_applySalt (b i : Nat) :
    bankEntry (applySalt s) b i = shuf1 (bankEntry s b i) (s.mask ^^^ saltMask s.salt[0] s.salt[1]) := by
  unfold applySalt
  split
  · rename_i h
    rw [h, BitVec.xor_self]
    exact (shuf1_zero _).symm
  · exact bankEntry_swapBanks s _ b i

theorem memoryWf_applySalt {s : State} (h : memoryWf s.mask s.bank) :
    memoryWf (applySalt s).mask (applySalt s).bank := by
  unfold applySalt
  split
  · exact h
  · exact memoryWf_swapBanks _ h

/-- The memo hit: nothing is written. -/
theorem applySalt_of_memo {s : State} (h : saltMask s.salt[0] s.salt[1] = s.mask) : applySalt s = s := by
  simp [applySalt, h]

@[simp] theorem applySalt_kbuf : (applySalt s).kbuf = s.kbuf := by
  unfold applySalt; split <;> rfl
@[simp] theorem applySalt_kcount : (applySalt s).kcount = s.kcount := by
  unfold applySalt; split <;> rfl
@[simp] theorem applySalt_fin : (applySalt s).fin = s.fin := by
  unfold applySalt; split <;> rfl
@[simp] theorem applySalt_salt : (applySalt s).salt = s.salt := by
  unfold applySalt; split <;> rfl
@[simp] theorem applySalt_saltv : (applySalt s).saltv = s.saltv := by
  unfold applySalt; split <;> rfl
@[simp] theorem applySalt_ks : (applySalt s).ks = s.ks := by
  unfold applySalt; split <;> rfl
@[simp] theorem applySalt_l : (applySalt s).l = s.l := by
  unfold applySalt; split <;> rfl
@[simp] theorem applySalt_r : (applySalt s).r = s.r := by
  unfold applySalt; split <;> rfl
@[simp] theorem applySalt_out : (applySalt s).out = s.out := by
  unfold applySalt; split <;> rfl
@[simp] theorem applySalt_outv : (applySalt s).outv = s.outv := by
  unfold applySalt; split <;> rfl
@[simp] theorem applySalt_err : (applySalt s).err = s.err := by
  unfold applySalt; split <;> rfl
@[simp] theorem applySalt_fatal : (applySalt s).fatal = s.fatal := by
  unfold applySalt; split <;> rfl
@[simp] theorem applySalt_rdata : (applySalt s).rdata = s.rdata := by
  unfold applySalt; split <;> rfl
@[simp] theorem applySalt_port : (applySalt s).port = s.port := by
  unfold applySalt; split <;> rfl

/-! ## RESET's un-swap (45_digest_context.md R292) -/

@[simp] theorem unapplySalt_mask : (unapplySalt s).mask = 0 := by
  unfold unapplySalt
  split
  · simp
  · rename_i h; simpa using h

/-- Every entry is swapped by the mask it carried. -/
theorem bankEntry_unapplySalt (b i : Nat) : bankEntry (unapplySalt s) b i = shuf1 (bankEntry s b i) s.mask := by
  unfold unapplySalt
  split
  · exact bankEntry_swapBanks s _ b i
  · rename_i h
    have h0 : s.mask = 0#32 := by simpa using h
    rw [h0, shuf1_zero]

theorem memoryWf_unapplySalt {s : State} (h : memoryWf s.mask s.bank) :
    memoryWf (unapplySalt s).mask (unapplySalt s).bank := by
  unfold unapplySalt
  split
  · exact memoryWf_swapBanks _ h
  · exact h

@[simp] theorem unapplySalt_kbuf : (unapplySalt s).kbuf = s.kbuf := by
  unfold unapplySalt; split <;> rfl
@[simp] theorem unapplySalt_kcount : (unapplySalt s).kcount = s.kcount := by
  unfold unapplySalt; split <;> rfl
@[simp] theorem unapplySalt_fin : (unapplySalt s).fin = s.fin := by
  unfold unapplySalt; split <;> rfl
@[simp] theorem unapplySalt_salt : (unapplySalt s).salt = s.salt := by
  unfold unapplySalt; split <;> rfl
@[simp] theorem unapplySalt_saltv : (unapplySalt s).saltv = s.saltv := by
  unfold unapplySalt; split <;> rfl
@[simp] theorem unapplySalt_ks : (unapplySalt s).ks = s.ks := by
  unfold unapplySalt; split <;> rfl
@[simp] theorem unapplySalt_l : (unapplySalt s).l = s.l := by
  unfold unapplySalt; split <;> rfl
@[simp] theorem unapplySalt_r : (unapplySalt s).r = s.r := by
  unfold unapplySalt; split <;> rfl
@[simp] theorem unapplySalt_out : (unapplySalt s).out = s.out := by
  unfold unapplySalt; split <;> rfl
@[simp] theorem unapplySalt_outv : (unapplySalt s).outv = s.outv := by
  unfold unapplySalt; split <;> rfl
@[simp] theorem unapplySalt_err : (unapplySalt s).err = s.err := by
  unfold unapplySalt; split <;> rfl
@[simp] theorem unapplySalt_fatal : (unapplySalt s).fatal = s.fatal := by
  unfold unapplySalt; split <;> rfl
@[simp] theorem unapplySalt_rdata : (unapplySalt s).rdata = s.rdata := by
  unfold unapplySalt; split <;> rfl
@[simp] theorem unapplySalt_port : (unapplySalt s).port = s.port := by
  unfold unapplySalt; split <;> rfl

/-! ## The key buffer (45_digest_context.md R293) -/

/-- A full buffer drops the byte. -/
theorem appendKeyByte_of_full {s : State} (b : Byte) (h : 8 ≤ s.kcount.toNat) : appendKeyByte s b = s := by
  simp [appendKeyByte, Nat.not_lt.mpr h]

/-- A buffer with room takes the low 7 bits at index KCOUNT. -/
theorem appendKeyByte_of_room {s : State} (b : Byte) (h : s.kcount.toNat < 8) :
    appendKeyByte s b = { s with kbuf := s.kbuf.set s.kcount.toNat (keyByte b) h, kcount := s.kcount + 1 } := by
  simp [appendKeyByte, h]

@[simp] theorem appendKeyByte_fin (b : Byte) : (appendKeyByte s b).fin = s.fin := by
  unfold appendKeyByte; split <;> rfl
@[simp] theorem appendKeyByte_salt (b : Byte) : (appendKeyByte s b).salt = s.salt := by
  unfold appendKeyByte; split <;> rfl
@[simp] theorem appendKeyByte_saltv (b : Byte) : (appendKeyByte s b).saltv = s.saltv := by
  unfold appendKeyByte; split <;> rfl
@[simp] theorem appendKeyByte_mask (b : Byte) : (appendKeyByte s b).mask = s.mask := by
  unfold appendKeyByte; split <;> rfl
@[simp] theorem appendKeyByte_bank (b : Byte) : (appendKeyByte s b).bank = s.bank := by
  unfold appendKeyByte; split <;> rfl
@[simp] theorem appendKeyByte_ks (b : Byte) : (appendKeyByte s b).ks = s.ks := by
  unfold appendKeyByte; split <;> rfl
@[simp] theorem appendKeyByte_l (b : Byte) : (appendKeyByte s b).l = s.l := by
  unfold appendKeyByte; split <;> rfl
@[simp] theorem appendKeyByte_r (b : Byte) : (appendKeyByte s b).r = s.r := by
  unfold appendKeyByte; split <;> rfl
@[simp] theorem appendKeyByte_out (b : Byte) : (appendKeyByte s b).out = s.out := by
  unfold appendKeyByte; split <;> rfl
@[simp] theorem appendKeyByte_outv (b : Byte) : (appendKeyByte s b).outv = s.outv := by
  unfold appendKeyByte; split <;> rfl
@[simp] theorem appendKeyByte_err (b : Byte) : (appendKeyByte s b).err = s.err := by
  unfold appendKeyByte; split <;> rfl
@[simp] theorem appendKeyByte_fatal (b : Byte) : (appendKeyByte s b).fatal = s.fatal := by
  unfold appendKeyByte; split <;> rfl
@[simp] theorem appendKeyByte_rdata (b : Byte) : (appendKeyByte s b).rdata = s.rdata := by
  unfold appendKeyByte; split <;> rfl
@[simp] theorem appendKeyByte_port (b : Byte) : (appendKeyByte s b).port = s.port := by
  unfold appendKeyByte; split <;> rfl

/-! ## DIGEST's units (45_digest_context.md R294) -/

theorem prepareDigest_ks : (prepareDigest s).ks = scheduleOf s.kbuf := by simp [prepareDigest]

theorem prepareDigest_mask : (prepareDigest s).mask = saltMask s.salt[0] s.salt[1] := by simp [prepareDigest]

theorem bankEntry_prepareDigest (b i : Nat) :
    bankEntry (prepareDigest s) b i = shuf1 (bankEntry s b i) (s.mask ^^^ saltMask s.salt[0] s.salt[1]) :=
  bankEntry_applySalt (runKeyScheduler s) b i

theorem memoryWf_prepareDigest {s : State} (h : memoryWf s.mask s.bank) :
    memoryWf (prepareDigest s).mask (prepareDigest s).bank :=
  memoryWf_applySalt (s := runKeyScheduler s) h

@[simp] theorem prepareDigest_kbuf : (prepareDigest s).kbuf = s.kbuf := by simp [prepareDigest]
@[simp] theorem prepareDigest_kcount : (prepareDigest s).kcount = s.kcount := by simp [prepareDigest]
@[simp] theorem prepareDigest_fin : (prepareDigest s).fin = s.fin := by simp [prepareDigest]
@[simp] theorem prepareDigest_salt : (prepareDigest s).salt = s.salt := by simp [prepareDigest]
@[simp] theorem prepareDigest_saltv : (prepareDigest s).saltv = s.saltv := by simp [prepareDigest]
@[simp] theorem prepareDigest_l : (prepareDigest s).l = s.l := by simp [prepareDigest]
@[simp] theorem prepareDigest_r : (prepareDigest s).r = s.r := by simp [prepareDigest]
@[simp] theorem prepareDigest_out : (prepareDigest s).out = s.out := by simp [prepareDigest]
@[simp] theorem prepareDigest_outv : (prepareDigest s).outv = s.outv := by simp [prepareDigest]
@[simp] theorem prepareDigest_err : (prepareDigest s).err = s.err := by simp [prepareDigest]
@[simp] theorem prepareDigest_fatal : (prepareDigest s).fatal = s.fatal := by simp [prepareDigest]
@[simp] theorem prepareDigest_rdata : (prepareDigest s).rdata = s.rdata := by simp [prepareDigest]
@[simp] theorem prepareDigest_port : (prepareDigest s).port = s.port := by simp [prepareDigest]

theorem runDigest_of_some {s : State} {lr : DWord × DWord} (h : runFeistel (prepareDigest s) = some lr) :
    runDigest s = succeed (finalize (runOutputEncoder (setHalves (prepareDigest s) lr))) := by
  simp [runDigest, h]

theorem runDigest_of_none {s : State} (h : runFeistel (prepareDigest s) = none) :
    runDigest s = raiseFatal (prepareDigest s) := by
  simp [runDigest, h]

end Sys2Proof.Machine
end

