-- ==== Sys2Proof/Laws/Feistel.lean ====
section
/-!
SUPPORT. What F(s) reads (43_feistel.md R230, R233), and when it raises TableOffsetInvariantViolation.
-/
namespace Sys2Proof.Machine

/-- A chunk of an index word is aligned: its three low bits are 0. -/
def chunksAligned (x : DWord) : Prop :=
  (x.extractLsb' 0 16).toNat % 8 = 0 ∧ (x.extractLsb' 16 16).toNat % 8 = 0 ∧
    (x.extractLsb' 32 16).toNat % 8 = 0 ∧ (x.extractLsb' 48 16).toNat % 8 = 0

/-- Every chunk's offset lies in the bank offset space (R233: "at most 0x1FFFF"), so a lookup fails exactly on a
misaligned chunk. -/
theorem memRead_low (s : State) (c : BitVec 16) :
    memRead s c.toNat = if c.toNat % 8 = 0 then
      some (bankEntry s (c.toNat / 0x8000) (c.toNat % 0x8000 / 8)) else none := by
  have h : c.toNat < 0x20000 := by have := c.isLt; omega
  simp [memRead_eq, h]

theorem memRead_high (s : State) (c : BitVec 16) :
    memRead s (0x10000 + c.toNat) = if c.toNat % 8 = 0 then
      some (bankEntry s (2 + c.toNat / 0x8000) (c.toNat % 0x8000 / 8)) else none := by
  have h : 0x10000 + c.toNat < 0x20000 := by have := c.isLt; omega
  have h1 : (0x10000 + c.toNat) / 0x8000 = 2 + c.toNat / 0x8000 := by omega
  have h2 : (0x10000 + c.toNat) % 0x8000 = c.toNat % 0x8000 := by omega
  have h3 : ((0x10000 + c.toNat) % 8 = 0) ↔ (c.toNat % 8 = 0) := by omega
  rw [memRead_eq, h1, h2]
  simp only [h, true_and, h3]

/-- F(s) on an aligned index word: the XOR of one entry per chunk. -/
theorem feistelF_of_aligned (s : State) {x : DWord} (h : chunksAligned x) :
    feistelF s x = some
      (bankEntry s (2 + (x.extractLsb' 0 16).toNat / 0x8000) ((x.extractLsb' 0 16).toNat % 0x8000 / 8)
        ^^^ bankEntry s (2 + (x.extractLsb' 16 16).toNat / 0x8000) ((x.extractLsb' 16 16).toNat % 0x8000 / 8)
        ^^^ bankEntry s ((x.extractLsb' 32 16).toNat / 0x8000) ((x.extractLsb' 32 16).toNat % 0x8000 / 8)
        ^^^ bankEntry s ((x.extractLsb' 48 16).toNat / 0x8000) ((x.extractLsb' 48 16).toNat % 0x8000 / 8)) := by
  obtain ⟨h0, h1, h2, h3⟩ := h
  simp only [feistelF, memRead_low, memRead_high, h0, h1, h2, h3, if_true]

/-- F(s) on any other index word raises TableOffsetInvariantViolation. -/
theorem feistelF_of_not_aligned (s : State) {x : DWord} (h : ¬ chunksAligned x) : feistelF s x = none := by
  simp only [feistelF, memRead_low, memRead_high]
  unfold chunksAligned at h
  split_ifs <;> simp_all

/-- RunFeistel reads KS and the banks, nothing else of the state. -/
theorem feistelF_congr {s t : State} (h : ∀ b i, bankEntry t b i = bankEntry s b i) (x : DWord) :
    feistelF t x = feistelF s x := by
  by_cases ha : chunksAligned x
  · rw [feistelF_of_aligned t ha, feistelF_of_aligned s ha]
    simp only [h]
  · rw [feistelF_of_not_aligned t ha, feistelF_of_not_aligned s ha]

theorem subSteps_congr {s t : State} (h : ∀ b i, bankEntry t b i = bankEntry s b i) (ks : List DWord)
    (lr : DWord × DWord) : subSteps t ks lr = subSteps s ks lr := by
  induction ks using List.twoStepInduction generalizing lr with
  | nil => rfl
  | singleton k => rfl
  | cons_cons k0 k1 rest ih _ =>
    have e : subStep t k0 k1 lr = subStep s k0 k1 lr := by simp [subStep, feistelF_congr h]
    simp only [subSteps, e]
    cases subStep s k0 k1 lr with
    | none => rfl
    | some lr' => exact ih lr'

theorem iterations_congr {s t : State} (h : ∀ b i, bankEntry t b i = bankEntry s b i) (hk : t.ks = s.ks) (n : Nat)
    (lr : DWord × DWord) : iterations t n lr = iterations s n lr := by
  induction n generalizing lr with
  | zero => rfl
  | succ n ih =>
    have e : iteration t lr = iteration s lr := by simp [iteration, hk, subSteps_congr h]
    simp only [iterations, e]
    cases iteration s lr with
    | none => rfl
    | some lr' => exact ih lr'

theorem runFeistel_congr {s t : State} (h : ∀ b i, bankEntry t b i = bankEntry s b i) (hk : t.ks = s.ks) :
    runFeistel t = runFeistel s :=
  iterations_congr h hk _ _

end Sys2Proof.Machine
end

