-- ==== Sys2Proof/Laws/PerInstr.lean ====
section
/-!
SUPPORT. Per instruction: its command word has its opcode and the fixed bits of its row (30_encoding.md R102, R103).
-/
namespace Sys2Proof.Laws.FixedBits

/-- The word of `i` carries `i`'s opcode and passes its row's mask and match. -/
def Statement (i : Instr) : Prop :=
  opField (encode i) = i.opcode.code ∧ encode i &&& i.opcode.maskBits = i.opcode.matchBits

theorem nop : Statement .nop := by unfold Statement; decide
theorem init : Statement .init := by unfold Statement; decide
theorem reset : Statement .reset := by unfold Statement; decide
theorem ksched : Statement .ksched := by unfold Statement; decide
theorem saltperm : Statement .saltperm := by unfold Statement; decide
theorem feistel : Statement .feistel := by unfold Statement; decide
theorem outenc : Statement .outenc := by unfold Statement; decide
theorem digest : Statement .digest := by unfold Statement; decide
theorem rdks (index : BitVec 4) : Statement (.rdks index) := by unfold Statement; revert index; decide
theorem rdreg (sel : RegSel) : Statement (.rdreg sel) := by cases sel <;> unfold Statement <;> decide

/-- Two words agree when their opcode fields and every bit below do. -/
theorem bits (op : BitVec 4) (n : BitVec 2) (a b : Byte) (p : Nat) (hp : p < 32) :
    (enc op n a b).getLsbD p =
      if p < 8 then b.getLsbD p else if p < 16 then a.getLsbD (p - 8) else
      if p < 18 then n.getLsbD (p - 16) else if p < 28 then false else op.getLsbD (p - 28) := by
  interval_cases p <;> simp [enc]

theorem opField_enc (op : BitVec 4) (n : BitVec 2) (a b : Byte) : opField (enc op n a b) = op := by
  apply BitVec.eq_of_getLsbD_eq
  intro p hp
  simp only [opField, BitVec.getLsbD_extractLsb', bits _ _ _ _ _ (by omega : 28 + p < 32)]
  interval_cases p <;> simp

theorem update (byte : Byte) : Statement (.update byte) := by
  refine ⟨opField_enc _ _ _ _, ?_⟩
  apply BitVec.eq_of_getLsbD_eq
  intro p hp
  simp only [encode, Instr.opcode, Opcode.code, Opcode.maskBits, Opcode.matchBits, BitVec.getLsbD_and,
    bits _ _ _ _ _ hp]
  interval_cases p <;> simp

theorem setsalt (n : BitVec 2) (c0 c1 : Byte) : Statement (.setsalt n c0 c1) := by
  refine ⟨opField_enc _ _ _ _, ?_⟩
  apply BitVec.eq_of_getLsbD_eq
  intro p hp
  simp only [encode, Instr.opcode, Opcode.code, Opcode.maskBits, Opcode.matchBits, BitVec.getLsbD_and,
    bits _ _ _ _ _ hp]
  interval_cases p <;> simp

theorem rdbank (bank : BitVec 2) (index : BitVec 12) : Statement (.rdbank bank index) := by
  refine ⟨opField_enc _ _ _ _, ?_⟩
  apply BitVec.eq_of_getLsbD_eq
  intro p hp
  simp only [encode, Instr.opcode, Opcode.code, Opcode.maskBits, Opcode.matchBits, BitVec.getLsbD_and,
    bits _ _ _ _ _ hp]
  interval_cases p <;> simp

end Sys2Proof.Laws.FixedBits
end

