-- ==== Sys2Proof/Laws/Step.lean ====
section
/-!
SUPPORT. The three things a step can find on the port, and the two things a word can be.
-/
namespace Sys2Proof.Machine

theorem step_of_empty {s : State} (h : s.port = []) : step s = .next s := by simp [step, h]

theorem step_of_command {s : State} {w : Word} {rest : List PortEvent} (h : s.port = .command w :: rest) :
    step s = runWord w { s with port := rest } := by simp [step, h]

theorem step_of_hardwareReset {s : State} {rest : List PortEvent} (h : s.port = .hardwareReset :: rest) :
    step s = .next (hardwareReset { s with port := rest }) := by simp [step, h]

theorem runWord_of_ok {w : Word} {i : Instr} (s : State) (h : decode w = .ok i) : runWord w s = exec i s := by
  simp [runWord, h]

theorem runWord_of_error {w : Word} {e : DecodeError} (s : State) (h : decode w = .error e) :
    runWord w s = .next (illegalCommand s) := by simp [runWord, h]

theorem command_of_next {s t : State} {w : Word} (h : runWord w s = .next t) : command s w = t := by
  simp [command, h]

/-- What a step can do, said once: it waits, it resets, it runs a decoded command or it turns an illegal word away. -/
theorem step_cases (s : State) :
    (s.port = [] ∧ step s = .next s) ∨
    (∃ rest, s.port = .hardwareReset :: rest ∧ step s = .next (hardwareReset { s with port := rest })) ∨
    (∃ w rest i, s.port = .command w :: rest ∧ decode w = .ok i ∧ step s = exec i { s with port := rest }) ∨
    (∃ w rest e, s.port = .command w :: rest ∧ decode w = .error e ∧
      step s = .next (illegalCommand { s with port := rest })) := by
  cases hp : s.port with
  | nil => exact .inl ⟨rfl, step_of_empty hp⟩
  | cons ev rest =>
    cases ev with
    | hardwareReset => exact .inr (.inl ⟨rest, rfl, step_of_hardwareReset hp⟩)
    | command w =>
      cases hd : decode w with
      | ok i => exact .inr (.inr (.inl ⟨w, rest, i, rfl, hd, by rw [step_of_command hp, runWord_of_ok _ hd]⟩))
      | error e => exact .inr (.inr (.inr ⟨w, rest, e, rfl, hd, by rw [step_of_command hp, runWord_of_error _ hd]⟩))

end Sys2Proof.Machine
end

