-- ==== Sys2Proof/Laws/Safety.lean ====
section
/-!
SUPPORT. States whose cell list is empty: the banks are SHUF(BASE, MASK), whatever the mask.
-/
namespace Sys2Proof.Machine

theorem bankEntry_of_unlisted {s : State} (h : s.bank = []) (b : Nat) {i : Nat} (hi : i < 4096) :
    bankEntry s b i = shuf1 (base b i) s.mask := by
  have e1 : (4096 * b + i) / 4096 = b := by omega
  have e2 : (4096 * b + i) % 4096 = i := by omega
  simp [bankEntry, h, readEntry_nil, unlistedEntry, e1, e2]

theorem banksMatchMask_of_unlisted {s : State} (h : s.bank = []) : BanksMatchMask s :=
  fun b _ _ hi => bankEntry_of_unlisted h b hi

theorem cellsCanonical_of_unlisted {s : State} (h : s.bank = []) : CellsCanonical s := by
  simp [CellsCanonical, memoryWf, h]

end Sys2Proof.Machine
end

