-- ==== Sys2Proof/Tests/Slice0.lean ====
section
/-!
SUPPORT. The author's tests. Every expected value is the spec's: its encodings (30_encoding.md R103), its worked
examples, or the vectors of 95_test_vectors.md, named beside each test. After them, for every obligation with
hypotheses, a witness: a concrete state and operands that meet them.
-/
namespace Sys2Proof.Tests
open Sys2Proof.Machine

/-! ## Small states -/

/-- The key "@^vxDg*(" of the known vector (S1). -/
def keyHg : Vector Byte 8 := #v[0x40, 0x5E, 0x76, 0x78, 0x44, 0x67, 0x2A, 0x28]

/-- The key and the salt "hg" buffered, as before step 11 of program P1. -/
def buffered : State := { State.reset with kbuf := keyHg, kcount := 8, salt := #v[0x68, 0x67], saltv := true }

/-- The same with the banks salted and the key scheduled. -/
def prepared : State := { buffered with mask := 0x5A680000, ks := scheduleOf keyHg }

/-- The end state of P1 but for FIN, with events waiting on the port. -/
def completed (port : List PortEvent) : State :=
  { prepared with
    l := 0x6AD0787822C81AA8, r := 0x15C01D286A200070, outv := true, port := port
    out := #v[0x68, 0x67, 0x49, 0x66, 0x42, 0x53, 0x6C, 0x4F, 0x30, 0x70, 0x43, 0x4A, 0x6B] }

/-- A schedule no key has: its first index word is misaligned. -/
def corrupted : State := { buffered with ks := (Vector.replicate 16 0).set 0 1, outv := true }

/-- A faulted engine (the start of V-FAT-1). -/
def faulted : State := { buffered with fatal := true, err := 3, rdata := 7 }

/-- A finalized context (the start of V-CTX-3). -/
def finalized : State := { buffered with fin := true }

/-- The state a meaning answers, if it answers one. -/
def answer (o : Host.Outcome State Fault Refusal) : Option State :=
  match o with
  | .next t => some t
  | .fault _ => none
  | .refused _ => none

/-- One step that takes the word `w` from the port. -/
def stepWord (w : Word) (s : State) : Option State := answer (step { s with port := [.command w] })

/-! ## Well-formedness: the one check (R105) -/

theorem test_setsalt_count_three_refused : Instr.wellFormed (.setsalt 3 0x68 0x67) = false := by decide

/-! ## Decoding, one word per constructor, from R103's patterns -/

theorem test_decode_nop : decode 0x00000000 = .ok .nop := by decide
theorem test_decode_init : decode 0x10000000 = .ok .init := by decide
theorem test_decode_reset : decode 0x20000000 = .ok .reset := by decide
/-- P1, step 3. -/
theorem test_decode_update : decode 0x3000005E = .ok (.update 0x5E) := by decide
/-- P3, step 1: c0 in A, c1 in B. -/
theorem test_decode_setsalt : decode 0x40016100 = .ok (.setsalt 1 0x61 0x00) := by decide
theorem test_decode_ksched : decode 0x50000000 = .ok .ksched := by decide
theorem test_decode_saltperm : decode 0x60000000 = .ok .saltperm := by decide
theorem test_decode_feistel : decode 0x70000000 = .ok .feistel := by decide
theorem test_decode_outenc : decode 0x80000000 = .ok .outenc := by decide
theorem test_decode_digest : decode 0x90000000 = .ok .digest := by decide
/-- R320. -/
theorem test_decode_rdbank : decode 0xA0030FFF = .ok (.rdbank 3 0xFFF) := by decide
/-- R321. -/
theorem test_decode_rdks : decode 0xB000000F = .ok (.rdks 15) := by decide
/-- R108: 3 is MASK. -/
theorem test_decode_rdreg : decode 0xC0000003 = .ok (.rdreg .mask) := by decide
/-- R103's `enc` for RDBANK: A = IDX >> 8, B = IDX & 0xFF. -/
theorem test_encode_rdbank : encode (.rdbank 2 0xA5C) = 0xA0020A5C := by decide
/-- V-SALT-1. -/
theorem test_encode_setsalt : encode (.setsalt 2 0x68 0x67) = 0x40026867 := by decide
/-- V-DEC-2, V-DEC-3, V-DEC-6, V-SALT-6a: each case of R105. -/
theorem test_decode_illegal :
    decode 0xD0000000 = .error .reservedOpcode ∧ decode 0x3FFFFFFF = .error .reservedBits ∧
      decode 0xA0001000 = .error .reservedBits ∧ decode 0x40036867 = .error .reservedCount := by decide
/-- The table's numbering is the command word's own. -/
theorem test_decode_table_word : decodeTableWord 32 0xC0000007 = some (.rdreg .out1) := by decide

/-! ## The assembler (R108, R109): lines of P1 and P3 -/

theorem test_assemble_hash :
    assemble ["HASH \"@^\", \"hg\" ; a comment".toList, "RDREG OUT0".toList, "SETSALT 1, 'a', 0x00".toList] =
      some [0x20000000, 0x30000040, 0x3000005E, 0x40026867, 0x90000000, 0xC0000006, 0x40016100] := by
  decide

/-- R108: a quoted character is a `<byte>`; an index is a number (log entry 15), in range. -/
theorem test_assemble_operands :
    assemble ["UPDATE 'c'".toList] = some [0x30000063] ∧ assemble ["RDBANK 0, 'a'".toList] = none ∧
      assemble ["RDKS 16".toList] = none := by decide

/-! ## Tables (95_test_vectors.md section 2.1) -/

theorem test_table_entries :
    pc1t 0 1 0x7F = 0x00101011 ∧ pc2t 7 0x7F = 0x22400A40 ∧ ept 0 0xFF 0 = 0x10082288 ∧ ept 3 0x01 1 = 0x02800000 ∧
      efp 8 0x3F 1 = 0x80808080 ∧ base 1 0x555 = 0x0040101040000000 ∧ base 2 0x123 = 0x0000084008000000 := by
  decide

/-- Section 2.3. -/
theorem test_salt_masks :
    saltMask 0x39 0x2E = 0x68000000 ∧ saltMask 0x41 0x7A = 0x19F80000 ∧ saltMask 0x61 0x62 = 0x33C80000 := by
  decide
theorem test_shuf1 : shuf1 0xFFFFFFFF00000000 0x7FF80000 = 0x8007FFFF7FF80000 := by decide

/-! ## Memory (V-MEM-1 to V-MEM-3) -/

theorem test_memRead_banks :
    memRead State.reset 0x1FFF8 = some 0x4280052002800010 ∧ memRead State.reset 0x08000 = some 0x2000100005104048 := by
  decide
theorem test_memRead_violation :
    memRead State.reset 0x20000 = none ∧ memRead State.reset 0x00004 = none ∧ memRead State.reset 0x1FFFF = none := by
  decide

/-! ## Commands, one step each -/

/-- R291's worked example: NOP clears ERR = 1. -/
theorem test_nop_clears_err : (stepWord 0x00000000 { State.reset with err := 1 }).map (·.err) = some 0 := by decide

/-- V-INIT-2. -/
theorem test_init_unsalts :
    (stepWord 0x10000000 prepared).map (fun t => (t.mask, bankEntry t 0 0, t.saltv)) =
      some (0, 0x1008228830200500, true) := by decide

/-- R292's worked example. -/
theorem test_reset_returns_to_base :
    (stepWord 0x20000000 prepared).map (fun t => (status t, t.mask, bankEntry t 0 0)) =
      some (0, 0, 0x1008228830200500) := by decide

/-- V-CTX-1. -/
theorem test_update_clears_bit7 :
    (stepWord 0x300000C0 State.reset).map (fun t => (t.kbuf[0], t.kcount, status t)) = some (0x40, 1, 5) := by decide
/-- V-CTX-2. -/
theorem test_update_drops_ninth :
    (stepWord 0x30000058 buffered).map (fun t => (t.kbuf, t.kcount, t.err)) = some (keyHg, 8, 0) := by decide

/-- V-SALT-1. -/
theorem test_setsalt_stores :
    (stepWord 0x40026867 State.reset).map (fun t => (t.salt, t.saltv, t.err)) = some (#v[0x68, 0x67], true, 0) := by
  decide
/-- V-SALT-3 and V-SALT-6. -/
theorem test_setsalt_errors :
    (stepWord 0x40022E7B State.reset).map (fun t => (t.saltv, t.err)) = some (false, 1) ∧
      (stepWord 0x40002E2E State.reset).map (fun t => (t.saltv, t.err)) = some (false, 2) := by decide

/-- 95_test_vectors.md section 3. -/
theorem test_ksched_subkeys :
    (stepWord 0x50000000 buffered).map (fun t => (t.ks[0], t.ks[9], t.ks[15])) =
      some (0x0B389AB86D00A1C0, 0x6A70AB201110A6E0, 0x5338CE90164892C0) := by decide

/-- R205's worked example, and section 2.5. -/
theorem test_saltperm_hg :
    (stepWord 0x60000000 buffered).map (fun t => (t.mask, bankEntry t 0 0, bankEntry t 3 0xFFF)) =
      some (0x5A680000, 0x1020228830080500, 0x0280052042800010) := by decide
/-- V-SALT-8: from "hg" to "zz". -/
theorem test_saltperm_delta :
    (stepWord 0x60000000 { prepared with salt := #v[0x7A, 0x7A] }).map (fun t => (t.mask, bankEntry t 1 0x555)) =
      some (0x7FF80000, 0x4000101000400000) := by decide

/-- Section 4.1: F of the first index word, and the halves after iteration 1. -/
theorem test_feistel_first_lookup : feistelF prepared 0x0B389AB86D00A1C0 = some 0x5FE000782FA01860 := by decide
theorem test_feistel_first_iteration :
    iteration prepared (0, 0) = some (0x7D8835382F2822E8, 0x0A40278870B85290) := by decide
/-- The same table: from the halves after iteration 24 to L and R. -/
theorem test_feistel_last_iteration :
    iteration prepared (0x37F0600832881048, 0x00F85FE057203510) =
      some (0x6AD0787822C81AA8, 0x15C01D286A200070) := by decide

/-- R265's worked example. -/
theorem test_outenc_hg :
    (stepWord 0x80000000 { completed [] with out := Vector.replicate 13 0, outv := false }).map
        (fun t => (t.out, t.outv, t.err)) =
      some (#v[0x68, 0x67, 0x49, 0x66, 0x42, 0x53, 0x6C, 0x4F, 0x30, 0x70, 0x43, 0x4A, 0x6B], true, 0) := by
  decide
/-- V-OUT-1. -/
theorem test_outenc_without_salt : (stepWord 0x80000000 State.reset).map (·.err) = some 2 := by decide

/-- V-CTX-6; the units of a DIGEST that runs are tested above. -/
theorem test_digest_without_salt :
    (stepWord 0x90000000 State.reset).map (fun t => (t.err, t.fin, t.outv)) = some (2, false, false) := by decide
/-- S1, before the FeistelEngine: DIGEST's KS, MASK and bank contents. -/
theorem test_digest_prepares :
    (prepareDigest buffered).ks[0] = 0x0B389AB86D00A1C0 ∧ (prepareDigest buffered).mask = 0x5A680000 ∧
      bankEntry (prepareDigest buffered) 0 0 = 0x1020228830080500 := by decide

/-- V-RD-2. -/
theorem test_rdbank_last : (stepWord 0xA0030FFF State.reset).map (·.rdata) = some 0x4280052002800010 := by
  decide
/-- P1, end state. -/
theorem test_rdks_first : (stepWord 0xB0000000 prepared).map (·.rdata) = some 0x0B389AB86D00A1C0 := by decide
/-- V-RD-4: the previous command's ERR, then ERR = 0. -/
theorem test_rdreg_status :
    (stepWord 0xC0000000 { State.reset with err := 1 }).map (fun t => (t.rdata, t.err)) = some (0x100, 0) := by decide
/-- P1, steps 12 and 13. -/
theorem test_rdreg_out :
    (stepWord 0xC0000006 (completed [])).map (·.rdata) = some 0x6867496642536C4F ∧
      (stepWord 0xC0000007 (completed [])).map (·.rdata) = some 0x3070434A6B000000 := by decide

/-! ## Errors -/

/-- R344 on a state that only a faulty engine reaches. -/
theorem runFeistel_corrupted : runFeistel corrupted = none := by decide
theorem test_feistel_violation :
    (stepWord 0x70000000 corrupted).map (fun t => (t.err, t.fatal, t.outv, t.l)) = some (3, true, false, 0) := by
  decide
/-- V-FAT-1 and V-FAT-3: Halted, but an illegal word first. -/
theorem test_fatal_halts :
    (stepWord 0x20000000 faulted).map (fun t => (t.err, t.saltv, t.rdata)) = some (6, true, 7) ∧
      (stepWord 0xD0000000 faulted).map (·.err) = some 4 := by decide
/-- V-PRI-1 and V-CTX-4. -/
theorem test_priority :
    (stepWord 0x40012067 finalized).map (·.err) = some 2 ∧ (stepWord 0x90000000 finalized).map (·.err) = some 5 := by
  decide
/-- R380: the reset input clears FATAL and leaves what waits on the port. -/
theorem test_hardware_reset :
    (answer (step { faulted with port := [.hardwareReset, .command 0] })).map (fun t => (t.fatal, t.port.length)) =
      some (false, 1) := by decide

/-! ## Witnesses: the invariants hold in states that are not the reset state -/

theorem hg_inAlphabet : inAlphabet 0x68 ∧ inAlphabet 0x67 := by unfold inAlphabet; decide
theorem hg_mask : (0x5A680000 : Word) = saltMask 0x68 0x67 := by decide

theorem completed_legal (port : List PortEvent) : Legal (completed port) where
  keyBuffer := ⟨by show (8 : BitVec 4).toNat ≤ 8; decide, by
    show ∀ k (h : k < 8), keyHg[k].getLsbD 7 = false ∧ ((8 : BitVec 4).toNat ≤ k → keyHg[k] = 0)
    decide⟩
  salt := fun _ => hg_inAlphabet
  mask := .inr ⟨0x68, 0x67, hg_inAlphabet.1, hg_inAlphabet.2, hg_mask⟩
  banks := banksMatchMask_of_unlisted rfl
  cells := cellsCanonical_of_unlisted rfl
  schedule := .inr ⟨keyHg, rfl⟩
  halves := by
    show isELayout 0x6AD0787822C81AA8 ∧ isELayout 0x15C01D286A200070
    unfold isELayout; decide
  output := fun _ => by
    show (∀ i (h : i < 13), inAlphabet
        (#v[0x68, 0x67, 0x49, 0x66, 0x42, 0x53, 0x6C, 0x4F, 0x30, 0x70, 0x43, 0x4A, 0x6B] : Vector Byte 13)[i]) ∧
      ∃ k : BitVec 4, (0x6B : Byte) = alpha (k ++ 0#2)
    unfold inAlphabet
    exact ⟨by decide, 12, by decide⟩
  err := by show (0 : BitVec 4) ≤ 6; decide

theorem completed_step_legal : Legal (completed [.command 0xC0000001]) ∧ Safe (completed [.command 0xC0000001]) ∧
    ∃ t, step (completed [.command 0xC0000001]) = .next t :=
  ⟨completed_legal _, rfl, _, rfl⟩

/-! ## Witnesses: one per obligation with hypotheses, each clause at a boundary value -/

theorem witness_HardwareResetStep : (completed [.hardwareReset, .command 0]).port = .hardwareReset :: [.command 0] := rfl

theorem witness_StepRunsDecodedCommand :
    (completed [.command 0xA0030FFF]).port = [.command 0xA0030FFF] ∧ decode 0xA0030FFF = .ok (.rdbank 3 0xFFF) ∧
      (completed [.command 0xFFFFFFFF]).port = [.command 0xFFFFFFFF] ∧ decode 0xFFFFFFFF = .error .reservedOpcode ∧
      (completed []).port = [] ∧ decode (BitVec.ofNat 32 (0xC0000007 % 2 ^ 32)) = .ok (.rdreg .out1) :=
  ⟨rfl, by decide, rfl, by decide, rfl, by decide⟩

theorem witness_PortOrder : exec .nop (completed [.hardwareReset]) = .next (succeed (completed [.hardwareReset])) := rfl

/-- Each case of R105, and the last legal word of the last row. -/
theorem witness_IllegalWordsExactly :
    illegalWord 0xD0000000 ∧ illegalWord 0xC0000008 ∧ illegalWord 0x40030000 ∧ ¬ illegalWord 0xC0000007 := by
  refine ⟨.inl (by decide), .inr (.inr (.inr (.inl ⟨.rdreg, by decide, by decide⟩))),
    .inr (.inr (.inr (.inr ⟨by decide, by decide⟩))), ?_⟩
  rintro (h | h | h | ⟨op, h, h'⟩ | h)
  · revert h; decide
  · revert h; decide
  · revert h; decide
  · cases op <;> revert h h' <;> decide
  · revert h; decide

theorem witness_DecodeEncode : Instr.wellFormed (.setsalt 2 0xFF 0x00) = true ∧ Instr.wellFormed (.rdks 15) = true := by
  decide
theorem witness_EncodeDecode : decode 0x4002FF00 = .ok (.setsalt 2 0xFF 0x00) := by decide
theorem witness_AssemblerEmitsLegalWords : assemble ["RDBANK 3, 4095".toList] = some [0xA0030FFF] := by decide

/-- An outcome with each error code of R341: 1, 2 (both causes), 3, 5 and 6. -/
theorem witness_ErrorCodesRaisedBy :
    (stepWord 0x4002207A (completed [])).map (·.err) = some 1 ∧ (stepWord 0x40010000 (completed [])).map (·.err) = some 2 ∧
      (stepWord 0x60000000 State.reset).map (·.err) = some 2 ∧ (stepWord 0x70000000 corrupted).map (·.err) = some 3 ∧
      (stepWord 0x30000000 finalized).map (·.err) = some 5 ∧ (stepWord 0x50000000 faulted).map (·.err) = some 6 := by
  decide

theorem exec_feistel_corrupted : exec .feistel corrupted = .next (raiseFatal corrupted) := by
  simp only [exec, execFeistel, runFeistel_corrupted]; rfl

theorem witness_PreciseErrors :
    runWord 0x30000000 finalized = .next (raise .sequenceError finalized) ∧ (raise .sequenceError finalized).err ≠ 0 ∧
      (raise .sequenceError finalized).err ≠ 3 ∧ runWord 0x70000000 corrupted = .next (raiseFatal corrupted) ∧
      (raiseFatal corrupted).err = 3 :=
  ⟨rfl, by decide, by decide, exec_feistel_corrupted, rfl⟩

theorem witness_ViolationEffect_feistel : corrupted.fatal = false ∧ runFeistel corrupted = none :=
  ⟨rfl, runFeistel_corrupted⟩

/-- Banks that no run leaves, as of a faulty table build: BANK[3][0], which the first F of the zero key reads, is no
E-layout word, so a later index word is misaligned. -/
def faultyBanks : State :=
  { State.reset with salt := #v[0x2E, 0x2E], saltv := true, bank := writeEntry 0 [] (4096 * 3) 1 }

theorem witness_ViolationEffect_digest : faultyBanks.fatal = false ∧ faultyBanks.fin = false ∧
    faultyBanks.saltv = true ∧ runFeistel (applySalt { faultyBanks with ks := scheduleOf faultyBanks.kbuf }) = none :=
  ⟨rfl, rfl, rfl, by decide⟩

/-- Each item of R350 and none of them. -/
theorem witness_ErrorPriority :
    firstError faulted .reset = some .halted ∧ firstError finalized .digest = some .sequenceError ∧
      firstError finalized (.setsalt 1 0x20 0x67) = some .shortSalt ∧
      firstError finalized (.setsalt 2 0x67 0x20) = some .invalidSalt ∧ firstError finalized .feistel = none ∧
      decode 0x40022020 = .ok (.setsalt 2 0x20 0x20) := by decide

theorem witness_HaltedCommands : faulted.fatal = true ∧ Instr.wellFormed (.setsalt 2 0x68 0x67) = true ∧
    acceptedWhileFatal (.setsalt 2 0x68 0x67) = false ∧ illegalWord 0xE0000000 :=
  ⟨rfl, by decide, rfl, .inr (.inl (by decide))⟩

theorem witness_FatalIsSticky :
    runWord 0x20000000 faulted = .next (raise .halted faulted) ∧ faulted.fatal = true ∧
      runWord 0x70000000 corrupted = .next (raiseFatal corrupted) ∧ corrupted.fatal = false ∧
      step { faulted with port := [.hardwareReset] } = .next (hardwareReset { faulted with port := [] }) ∧
      (hardwareReset { faulted with port := [] }).fatal = false :=
  ⟨rfl, rfl, exec_feistel_corrupted, rfl, by simp only [step], by simp only [hardwareReset]; rfl⟩

theorem witness_SequenceErrorWhenFinalized : finalized.fatal = false ∧ finalized.fin = true := ⟨rfl, rfl⟩

/-- A success, an error and a violation; UPDATE with one place left and with none; SALTPERM's memo hit. -/
theorem witness_WriteMatrix :
    exec (.rdks 15) prepared = .next (succeed (setRdata prepared (subkeyAt prepared 15))) ∧
      exec .digest finalized = .next (raise .sequenceError finalized) ∧
      exec .feistel corrupted = .next (raiseFatal corrupted) ∧
      (∃ t, exec (.update 0xFF) { State.reset with kcount := 7 } = .next t) ∧
      (8 : Nat) ≤ buffered.kcount.toNat ∧ saltMask prepared.salt[0] prepared.salt[1] = prepared.mask :=
  ⟨rfl, rfl, exec_feistel_corrupted, ⟨_, rfl⟩, by decide, hg_mask.symm⟩

theorem witness_InitEffect : prepared.fatal = false ∧ buffered.fatal = false ∧ buffered.mask = 0 ∧
    BanksMatchMask buffered ∧ CellsCanonical buffered :=
  ⟨rfl, rfl, rfl, banksMatchMask_of_unlisted rfl, cellsCanonical_of_unlisted rfl⟩

theorem witness_ResetEffect : prepared.fatal = false ∧ prepared.mask ≠ 0 ∧ buffered.fatal = false ∧ buffered.mask = 0 :=
  ⟨rfl, by show (0x5A680000 : Word) ≠ 0; decide, rfl, rfl⟩

theorem witness_ResetReachesHardwareResetState :
    prepared.fatal = false ∧ BanksMatchMask prepared ∧ CellsCanonical prepared :=
  ⟨rfl, banksMatchMask_of_unlisted rfl, cellsCanonical_of_unlisted rfl⟩

/-- KCOUNT = 0, 7 and 8, and FIN = 1. -/
theorem witness_UpdateEffect :
    State.reset.fatal = false ∧ State.reset.fin = false ∧ State.reset.kcount.toNat < 8 ∧
      ({ State.reset with kcount := 7 } : State).kcount.toNat < 8 ∧ buffered.fin = false ∧
      8 ≤ buffered.kcount.toNat ∧ finalized.fin = true := by decide

theorem witness_DigestContextTransitions :
    dstate State.reset = .empty ∧ dstate buffered = .accumulating ∧ dstate finalized = .finalized ∧
      faulted.fatal = true ∧ buffered.saltv = true ∧ State.reset.saltv = false ∧
      exec .digest State.reset = .next (raise .shortSalt State.reset) :=
  ⟨by decide, by decide, by decide, rfl, rfl, rfl, rfl⟩

theorem witness_DigestEffect : buffered.fatal = false ∧ buffered.fin = false ∧ buffered.saltv = true ∧
    SaltLegal buffered ∧ BanksMatchMask buffered :=
  ⟨rfl, rfl, rfl, fun _ => hg_inAlphabet, banksMatchMask_of_unlisted rfl⟩

theorem witness_DigestRunsUnits : buffered.fatal = false ∧ buffered.fin = false ∧ buffered.saltv = true ∧
    SaltLegal buffered ∧ BanksMatchMask buffered :=
  ⟨rfl, rfl, rfl, fun _ => hg_inAlphabet, banksMatchMask_of_unlisted rfl⟩

theorem witness_KschedEffect : finalized.fatal = false := rfl
theorem witness_KeyScheduleClosedForm : buffered.fatal = false := rfl

/-- The first and the last character of each range. -/
theorem witness_SaltMaskBits :
    saltValue 0x2E = some 0 ∧ saltValue 0x39 = some 11 ∧ saltValue 0x41 = some 12 ∧ saltValue 0x5A = some 37 ∧
      saltValue 0x61 = some 38 ∧ saltValue 0x7A = some 63 := by decide
theorem witness_SwapExchangesEBits : inAlphabet 0x2E ∧ inAlphabet 0x7A := by unfold inAlphabet; decide

/-- n = 0 to 3, and a valid and an invalid pair. -/
theorem witness_SetsaltEffect :
    finalized.fatal = false ∧ (0 : BitVec 2) < 2 ∧ (1 : BitVec 2) < 2 ∧ (inAlphabet 0x68 ∧ inAlphabet 0x67) ∧
      ¬ (inAlphabet 0x2E ∧ inAlphabet 0x7B) ∧ ¬ (inAlphabet 0x40 ∧ inAlphabet 0x2E) := by
  unfold inAlphabet; decide

theorem witness_SaltpermEffect : buffered.fatal = false ∧ buffered.saltv = true ∧
    saltMask prepared.salt[0] prepared.salt[1] = prepared.mask ∧ State.reset.saltv = false :=
  ⟨rfl, rfl, hg_mask.symm, rfl⟩
theorem witness_SaltpermIdempotent : faulted.saltv = true ∧ buffered.saltv = true := ⟨rfl, rfl⟩

theorem witness_SaltedBankClosedForm : inAlphabet 0x68 ∧ inAlphabet 0x67 ∧ prepared.mask = saltMask 0x68 0x67 ∧
    BanksMatchMask prepared :=
  ⟨hg_inAlphabet.1, hg_inAlphabet.2, hg_mask, banksMatchMask_of_unlisted rfl⟩

theorem witness_MemWriteReadsBack : (0x1FFF8 : Nat) < 0x20000 ∧ 0x1FFF8 % 8 = 0 := by decide

/-- The first index word of the known vector. -/
theorem witness_IndexWordSelectsBanks : isELayout (0x0B389AB86D00A1C0 ^^^ keyMarker) := by unfold isELayout; decide

theorem witness_FeistelEffect :
    prepared.fatal = false ∧ BanksMatchMask prepared ∧ MaskLegal prepared ∧ ScheduleLegal prepared :=
  ⟨rfl, (completed_legal []).banks, (completed_legal []).mask, (completed_legal []).schedule⟩

theorem witness_FeistelZeroSchedule : buffered.fatal = false ∧ ∀ i (h : i < 16), buffered.ks[i] = 0 := by decide

theorem witness_FeistelClosedForm : prepared.fatal = false ∧ inAlphabet 0x68 ∧ inAlphabet 0x67 ∧
    prepared.mask = saltMask 0x68 0x67 ∧ BanksMatchMask prepared ∧ prepared.ks = scheduleOf keyHg :=
  ⟨rfl, hg_inAlphabet.1, hg_inAlphabet.2, hg_mask, banksMatchMask_of_unlisted rfl, rfl⟩

theorem witness_OutencEffect : (completed []).fatal = false ∧ (completed []).saltv = true ∧ buffered.saltv = true ∧
    buffered.l = 0 ∧ buffered.r = 0 ∧ State.reset.saltv = false :=
  ⟨rfl, rfl, rfl, rfl, rfl, rfl⟩

/-- The halves and the block of the known vector (section 4.2, first row). -/
theorem witness_OutputClosedForm :
    shuf1 0x6AD0787822C81AA8 0x5A680000 =
        eWord (permute 48 esel ((initialPerm 0x52B35EC5A0B5395C).extractLsb' 32 32)) ∧
      shuf1 0x15C01D286A200070 0x5A680000 =
        eWord (permute 48 esel ((initialPerm 0x52B35EC5A0B5395C).extractLsb' 0 32)) := by decide

theorem witness_OutputShape : (completed []).fatal = false ∧ (completed []).saltv = true ∧ SaltLegal (completed []) :=
  ⟨rfl, rfl, (completed_legal []).salt⟩

theorem witness_HashContract : prepared.fatal = false ∧ BanksMatchMask prepared ∧ inAlphabet 0x68 ∧ inAlphabet 0x67 ∧
    ([0x68] : List Byte).length < 2 ∧ ([] : List Byte).length < 2 ∧ ¬ (inAlphabet 0x20 ∧ inAlphabet 0x67) :=
  ⟨rfl, banksMatchMask_of_unlisted rfl, hg_inAlphabet.1, hg_inAlphabet.2, by decide, by decide,
    by unfold inAlphabet; decide⟩

theorem witness_HashIgnoresEarlierState : prepared.fatal = false ∧ finalized.fatal = false ∧ BanksMatchMask prepared ∧
    BanksMatchMask finalized ∧ CellsCanonical prepared ∧ CellsCanonical finalized :=
  ⟨rfl, rfl, banksMatchMask_of_unlisted rfl, banksMatchMask_of_unlisted rfl, cellsCanonical_of_unlisted rfl,
    cellsCanonical_of_unlisted rfl⟩

/-- "\xC1" and "A" followed by a zero byte; passwords that differ in the ninth byte. -/
theorem witness_HashReadsEightSevenBitBytes :
    (∀ k, k < 8 → ([0xC1] : List Byte).getD k 0 &&& 0x7F = ([0x41, 0x00] : List Byte).getD k 0 &&& 0x7F) ∧
      ∀ k, k < 8 → ([1, 2, 3, 4, 5, 6, 7, 8, 9] : List Byte).getD k 0 &&& 0x7F =
        ([1, 2, 3, 4, 5, 6, 7, 8] : List Byte).getD k 0 &&& 0x7F := by decide

theorem witness_HarmlessOrders : prepared.fatal = false ∧ prepared.fin = false ∧ CellsCanonical prepared ∧
    BanksMatchMask prepared ∧ prepared.saltv = true ∧ acceptedWhileFatal (.rdbank 3 0xFFF) = true :=
  ⟨rfl, rfl, cellsCanonical_of_unlisted rfl, banksMatchMask_of_unlisted rfl, rfl, rfl⟩

theorem witness_BankInvariantKept : BanksMatchMask (completed [.command 0xC0000001]) ∧
    ∃ t, step (completed [.command 0xC0000001]) = .next t :=
  ⟨completed_step_legal.1.banks, completed_step_legal.2.2⟩

theorem witness_CanonicalCellsKept : CellsCanonical (completed [.command 0xC0000001]) ∧
    ∃ t, step (completed [.command 0xC0000001]) = .next t :=
  ⟨completed_step_legal.1.cells, completed_step_legal.2.2⟩

/-- The last byte of the last bank, listed. -/
theorem witness_EqualBanksEqualCells : memoryWf 0 [(0x1FFFF, 0xFF)] := by decide

theorem witness_StateInvariantsKept : Legal (completed [.command 0xC0000001]) ∧
    ∃ t, step (completed [.command 0xC0000001]) = .next t :=
  ⟨completed_step_legal.1, completed_step_legal.2.2⟩

theorem witness_LegalRunsNeverFault : Legal (completed [.command 0xC0000001]) ∧
    Safe (completed [.command 0xC0000001]) ∧ isELayout 0x15C01D286A200070 ∧
    ∃ t, step (completed [.command 0xC0000001]) = .next t :=
  ⟨completed_step_legal.1, completed_step_legal.2.1, by unfold isELayout; decide, completed_step_legal.2.2⟩

/-- Two engines, the second with a word waiting. -/
theorem witness_EnginesIndependent :
    ∃ q, platformStep { engines := [State.reset, completed [.command 0xC0000001]] } 1 = .next q := ⟨_, rfl⟩

end Sys2Proof.Tests
end

section
/-!
PROOFS. MemWrite as MemRead's matching write (00_scope.md R11, 20_memory.md R74): what a completed write leaves in the
state, what it reads as at every offset, and which bytes it changes.
-/
namespace Sys2Proof.Machine

/-- MemWrite completes exactly at the aligned offsets below 0x20000, and writes the entry there. -/
theorem memWrite_eq_some_iff {s t : State} {off : Nat} {v : DWord} :
    memWrite s off v = some t ↔
      (off < 0x20000 ∧ off % 8 = 0) ∧ setBankEntry s (off / 0x8000) (off % 0x8000 / 8) v = t := by
  rw [memWrite_eq]
  split_ifs with h <;> simp [h]

/-- Two aligned offsets that select the same entry of the same bank are one offset. -/
theorem locate_coords_eq_iff {off off' : Nat} (h : off % 8 = 0) (h' : off' % 8 = 0) :
    (off' / 0x8000 = off / 0x8000 ∧ off' % 0x8000 / 8 = off % 0x8000 / 8) ↔ off' = off := by
  omega

/-- Read after write, at the offset written and at every other, legal or not. -/
theorem memRead_of_memWrite {s t : State} {off : Nat} {v : DWord} (h : memWrite s off v = some t) (off' : Nat) :
    memRead t off' = if off' = off then some v else memRead s off' := by
  obtain ⟨hoff, rfl⟩ := memWrite_eq_some_iff.mp h
  rw [memRead_eq, memRead_eq]
  by_cases hoff' : off' < 0x20000 ∧ off' % 8 = 0
  · have hi : off % 0x8000 / 8 < 4096 := by omega
    have hi' : off' % 0x8000 / 8 < 4096 := by omega
    rw [if_pos hoff', if_pos hoff', bankEntry_setBankEntry s v hi hi']
    simp only [locate_coords_eq_iff hoff.2 hoff'.2, apply_ite some]
  · have hne : off' ≠ off := fun e => hoff' (e ▸ hoff)
    rw [if_neg hoff', if_neg hoff', if_neg hne]

/-- Storing an entry changes its own eight bytes and no other byte, at any offset. -/
theorem bankByte_setBankEntry (s : State) (b i : Nat) (v : DWord) (a : Nat) :
    bankByte (setBankEntry s b i v) a = if a / 8 = 4096 * b + i then byteOf v (a % 8) else bankByte s a :=
  readByte_writeEntry s.mask s.bank (4096 * b + i) v a

/-- MemWrite changes no byte outside the eight at its offset. -/
theorem bankByte_of_memWrite {s t : State} {off : Nat} {v : DWord} (h : memWrite s off v = some t) {a : Nat}
    (ha : a < off ∨ off + 8 ≤ a) : bankByte t a = bankByte s a := by
  obtain ⟨hoff, rfl⟩ := memWrite_eq_some_iff.mp h
  have hne : a / 8 ≠ 4096 * (off / 0x8000) + off % 0x8000 / 8 := by omega
  rw [bankByte_setBankEntry, if_neg hne]

/-- Settles O38: MemWrite is the store of one bank entry, so its reads and bytes are those of the entry store. -/
theorem memWriteReadsBack : Obligations.MemWriteReadsBack := by
  intro s off v hlt halign
  have hw : memWrite s off v = some (setBankEntry s (off / 0x8000) (off % 0x8000 / 8) v) :=
    memWrite_eq_some_iff.mpr ⟨⟨hlt, halign⟩, rfl⟩
  refine ⟨_, hw, rfl, ?_, ?_, ?_⟩
  · rw [memRead_of_memWrite hw, if_pos rfl]
  · intro off' hne
    rw [memRead_of_memWrite hw, if_neg hne]
  · intro a ha
    exact bankByte_of_memWrite hw ha

end Sys2Proof.Machine
end

section
/-!
PROOFS. How a command can end (60_exceptions.md R340, R348, R350), said once for all thirteen: it is refused with an
error, it completes with the effect of its unit, or a bank lookup of RunFeistel raises the violation.
-/
namespace Sys2Proof.Machine

/-- What a completed command leaves before its ERR write: one constructor per command, with what it needed. -/
inductive Completes (s : State) : Instr → State → Prop where
  | nop : Completes s .nop s
  | init : Completes s .init (initBanks s)
  | reset : Completes s .reset (unapplySalt (clearContext s))
  | update (b : Byte) (unfinalized : s.fin = false) : Completes s (.update b) (appendKeyByte s b)
  | setsalt (c0 c1 : Byte) (first : inAlphabet c0) (second : inAlphabet c1) :
      Completes s (.setsalt 2 c0 c1) (storeSalt s c0 c1)
  | ksched : Completes s .ksched (runKeyScheduler s)
  | saltperm (salted : s.saltv = true) : Completes s .saltperm (applySalt s)
  | feistel (lr : DWord × DWord) (run : runFeistel s = some lr) : Completes s .feistel (setHalves s lr)
  | outenc (salted : s.saltv = true) : Completes s .outenc (runOutputEncoder s)
  | digest (salted : s.saltv = true) (unfinalized : s.fin = false) (lr : DWord × DWord)
      (run : runFeistel (prepareDigest s) = some lr) :
      Completes s .digest (finalize (runOutputEncoder (setHalves (prepareDigest s) lr)))
  | rdbank (b : BitVec 2) (k : BitVec 12) :
      Completes s (.rdbank b k) (setRdata s (bankEntry s b.toNat k.toNat))
  | rdks (k : BitVec 4) : Completes s (.rdks k) (setRdata s (subkeyAt s k))
  | rdreg (sel : RegSel) : Completes s (.rdreg sel) (setRdata s (regView s sel))

/-- The state in which a lookup of RunFeistel raises TableOffsetInvariantViolation (R344). -/
inductive Violates (s : State) : Instr → State → Prop where
  | feistel (run : runFeistel s = none) : Violates s .feistel s
  | digest (salted : s.saltv = true) (run : runFeistel (prepareDigest s) = none) :
      Violates s .digest (prepareDigest s)

/-- The ends of a command. -/
inductive Ends (s : State) (i : Instr) : State → Prop where
  | illegal (count : i.wellFormed = false) : Ends s i (illegalCommand s)
  | refused (e : ErrorCode) (why : firstError s i = some e) : Ends s i (raise e s)
  | completed (u : State) (effect : Completes s i u) : Ends s i (succeed u)
  | violated (safe : s.fatal = false) (u : State) (fault : Violates s i u) : Ends s i (raiseFatal u)

theorem firstError_halted {s : State} {i : Instr} (hf : s.fatal = true) (hi : acceptedWhileFatal i = false) :
    firstError s i = some .halted := by
  simp [firstError, hf, hi]

theorem firstError_sequenceError {s : State} {i : Instr} (hf : s.fatal = false) (h : sequenceErrorHolds s i = true) :
    firstError s i = some .sequenceError := by
  simp [firstError, hf, h]

theorem firstError_shortSalt {s : State} {i : Instr} (hf : s.fatal = false) (hseq : sequenceErrorHolds s i = false)
    (h : shortSaltHolds s i = true) : firstError s i = some .shortSalt := by
  simp [firstError, hf, hseq, h]

theorem firstError_invalidSalt {s : State} {i : Instr} (hf : s.fatal = false) (hseq : sequenceErrorHolds s i = false)
    (hshort : shortSaltHolds s i = false) (h : invalidSaltHolds i = true) : firstError s i = some .invalidSalt := by
  simp [firstError, hf, hseq, hshort, h]

/-- The errors that stand before a command runs are neither success nor the violation. -/
theorem firstError_code {s : State} {i : Instr} {e : ErrorCode} (h : firstError s i = some e) :
    e.code ≠ 0 ∧ e.code ≠ 3 := by
  unfold firstError at h
  split_ifs at h <;> cases h <;> decide

/-- The commands that FATAL stops end as their own meaning does while FATAL = 0. -/
theorem ends_unlessHalted {s done : State} {i : Instr} (hi : acceptedWhileFatal i = false)
    (h : s.fatal = false → Ends s i done) : Ends s i (unlessHalted s done) := by
  rcases unlessHalted_cases s done with ⟨hf, e⟩ | ⟨hf, e⟩
  · rw [e]; exact h hf
  · rw [e]; exact .refused .halted (firstError_halted hf hi)

theorem ends_update {s : State} (b : Byte) (hf : s.fatal = false) :
    Ends s (.update b) (if s.fin then raise .sequenceError s else succeed (appendKeyByte s b)) := by
  split_ifs with hfin
  · exact .refused _ (firstError_sequenceError hf hfin)
  · exact .completed _ (.update b (Bool.eq_false_of_not_eq_true hfin))

theorem ends_setsalt {s : State} {n : BitVec 2} (c0 c1 : Byte) (hn : n ≠ 3) (hf : s.fatal = false) :
    Ends s (.setsalt n c0 c1)
      (if n < 2 then raise .shortSalt s
        else if saltValue c0 = none then raise .invalidSalt s
        else if saltValue c1 = none then raise .invalidSalt s
        else succeed (storeSalt s c0 c1)) := by
  by_cases hlt : n < 2
  · rw [if_pos hlt]
    exact .refused _ (firstError_shortSalt hf rfl (decide_eq_true hlt))
  · obtain rfl : n = 2 := by revert n; decide
    rw [if_neg hlt]
    split_ifs with h0 h1
    · exact .refused _ (firstError_invalidSalt hf rfl rfl (by simp [invalidSaltHolds, h0]))
    · exact .refused _ (firstError_invalidSalt hf rfl rfl (by simp [invalidSaltHolds, h1]))
    · exact .completed _ (.setsalt c0 c1 h0 h1)

/-- SALTPERM and OUTENC end so: the salt is checked, then the unit runs. -/
theorem ends_salted {s done : State} {i : Instr} (hseq : sequenceErrorHolds s i = false)
    (hshort : shortSaltHolds s i = !s.saltv) (h : s.saltv = true → Ends s i done) (hf : s.fatal = false) :
    Ends s i (if s.saltv then done else raise .shortSalt s) := by
  split_ifs with hv
  · exact h hv
  · exact .refused _ (firstError_shortSalt hf hseq (by simp [hshort, hv]))

theorem ends_feistel {s : State} (hf : s.fatal = false) :
    Ends s .feistel (match runFeistel s with
      | some lr => succeed (setHalves s lr)
      | none => raiseFatal s) := by
  cases h : runFeistel s with
  | some lr => exact .completed _ (.feistel lr h)
  | none => exact .violated hf _ (.feistel h)

theorem ends_runDigest {s : State} (hf : s.fatal = false) (hfin : s.fin = false) (hv : s.saltv = true) :
    Ends s .digest (runDigest s) := by
  cases h : runFeistel (prepareDigest s) with
  | some lr =>
    rw [runDigest_of_some h]
    exact .completed _ (.digest hv hfin lr h)
  | none =>
    rw [runDigest_of_none h]
    exact .violated hf _ (.digest hv h)

theorem ends_digest {s : State} (hf : s.fatal = false) :
    Ends s .digest (if s.fin then raise .sequenceError s else if s.saltv then runDigest s else raise .shortSalt s) := by
  by_cases hfin : s.fin = true
  · rw [if_pos hfin]
    exact .refused _ (firstError_sequenceError hf hfin)
  · rw [if_neg hfin]
    have hopen : s.fin = false := Bool.eq_false_of_not_eq_true hfin
    exact ends_salted hopen rfl (ends_runDigest hf hopen) hf

/-- Every command answers a next state, and that state is one of its ends. -/
theorem exec_ends (i : Instr) (s : State) : ∃ t, exec i s = .next t ∧ Ends s i t := by
  cases i with
  | nop => exact ⟨_, rfl, .completed _ .nop⟩
  | init => exact ⟨_, rfl, ends_unlessHalted rfl fun _ => .completed _ .init⟩
  | reset => exact ⟨_, rfl, ends_unlessHalted rfl fun _ => .completed _ .reset⟩
  | update b => exact ⟨_, rfl, ends_unlessHalted rfl (ends_update b)⟩
  | setsalt n c0 c1 =>
    refine ⟨_, rfl, ?_⟩
    by_cases hn : n = 3
    · rw [if_pos hn]
      exact .illegal (by simp [Instr.wellFormed, hn])
    · rw [if_neg hn]
      exact ends_unlessHalted rfl (ends_setsalt c0 c1 hn)
  | ksched => exact ⟨_, rfl, ends_unlessHalted rfl fun _ => .completed _ .ksched⟩
  | saltperm => exact ⟨_, rfl, ends_unlessHalted rfl (ends_salted rfl rfl fun hv => .completed _ (.saltperm hv))⟩
  | feistel => exact ⟨_, rfl, ends_unlessHalted rfl ends_feistel⟩
  | outenc => exact ⟨_, rfl, ends_unlessHalted rfl (ends_salted rfl rfl fun hv => .completed _ (.outenc hv))⟩
  | digest => exact ⟨_, rfl, ends_unlessHalted rfl ends_digest⟩
  | rdbank b k => exact ⟨_, rfl, .completed _ (.rdbank b k)⟩
  | rdks k => exact ⟨_, rfl, .completed _ (.rdks k)⟩
  | rdreg sel => exact ⟨_, rfl, .completed _ (.rdreg sel)⟩

theorem ends_of_exec {s t : State} {i : Instr} (h : exec i s = .next t) : Ends s i t := by
  obtain ⟨u, hu, hends⟩ := exec_ends i s
  rw [hu] at h
  cases h
  exact hends

/-- A word runs the command it decodes to, or is illegal and leaves ERR = 4. -/
theorem runWord_cases {w : Word} {s t : State} (h : runWord w s = .next t) :
    (∃ i, decode w = .ok i ∧ Ends s i t) ∨ t = illegalCommand s := by
  cases hd : decode w with
  | ok i => exact .inl ⟨i, rfl, ends_of_exec (runWord_of_ok s hd ▸ h)⟩
  | error e =>
    rw [runWord_of_error s hd] at h
    cases h
    exact .inr rfl

/-- An invariant of the state that does not speak of the port and allows every error code holds after a step if the
reset state has it, the effect of every completed command keeps it, and so does the violation. -/
theorem step_keeps {P : State → Prop} (hport : ∀ s rest, P s → P { s with port := rest })
    (hraise : ∀ s e, P s → P (raise e s)) (hreset : P State.reset)
    (hdone : ∀ s i u, P s → Completes s i u → P u) (hviol : ∀ s i u, P s → Violates s i u → P (raiseFatal u))
    {s t : State} (hs : P s) (h : step s = .next t) : P t := by
  rcases step_cases s with ⟨-, e⟩ | ⟨rest, -, e⟩ | ⟨w, rest, i, -, -, e⟩ | ⟨w, rest, _, -, -, e⟩ <;> rw [e] at h
  · cases h; exact hs
  · cases h; exact hport State.reset _ hreset
  · cases ends_of_exec h with
    | illegal => exact hraise _ _ (hport s rest hs)
    | refused e => exact hraise _ e (hport s rest hs)
    | completed u hu => exact hraise u .ok (hdone _ i u (hport s rest hs) hu)
    | violated _ u hu => exact hviol _ i u (hport s rest hs) hu
  · cases h; exact hraise _ _ (hport s rest hs)

end Sys2Proof.Machine
end

section
/-!
PROOFS. The E-layout (00_scope.md R12) is kept by XOR and by SHUF1 under any mask, every BASE entry has it
(40_tables.md R155), and so RunFeistel's halves have it while INV-BANK holds (10_state.md R39).
-/
namespace Sys2Proof.Machine

theorem isELayout_iff {x : DWord} :
    isELayout x ↔ ∀ p < 64, x.getLsbD p = true → eLayoutMask.getLsbD p = true := by
  constructor
  · intro h p hp hx
    have hbit := congrArg (BitVec.getLsbD · p) h
    simpa [hp, hx] using hbit
  · intro h
    apply BitVec.eq_of_getLsbD_eq
    intro p hp
    have hbit := h p hp
    cases hx : x.getLsbD p <;> simp_all

theorem isELayout_zero : isELayout 0 := by unfold isELayout; decide

theorem isELayout_xor {x y : DWord} (hx : isELayout x) (hy : isELayout y) : isELayout (x ^^^ y) := by
  rw [isELayout_iff] at *
  intro p hp h
  cases hxp : x.getLsbD p
  · exact hy p hp (by simpa [hxp] using h)
  · exact hx p hp hxp

theorem isELayout_or {x y : DWord} (hx : isELayout x) (hy : isELayout y) : isELayout (x ||| y) := by
  rw [isELayout_iff] at *
  intro p hp h
  rw [BitVec.getLsbD_or, Bool.or_eq_true] at h
  exact h.elim (hx p hp) (hy p hp)

/-- SHUF1 exchanges bits 32 apart, and the layout is the same in both quarter-words. -/
theorem isELayout_shuf1 {x : DWord} (m : Word) (hx : isELayout x) : isELayout (shuf1 x m) := by
  have hsym : ∀ p < 64, eLayoutMask.getLsbD ((p + 32) % 64) = eLayoutMask.getLsbD p := by decide
  rw [isELayout_iff] at *
  intro p hp h
  rw [getLsbD_shuf1 x m hp] at h
  split_ifs at h
  · rw [← hsym p hp]
    exact hx _ (Nat.mod_lt _ (by decide)) h
  · exact hx p hp h

/-- An EPT word has bits only at the data positions of a quarter-word (R148, R152). -/
theorem ept_data_positions {y w : Nat} (j : Byte) (hy : y < 4) (hw : w < 2) {p : Nat} (hp : p < 32)
    (h : (ept y j w).getLsbD p = true) : (0x7FF87FF8#32).getLsbD p = true := by
  have hmask : ∀ b < 24, ∀ p < 32, (bitMask b).getLsbD p = true → (0x7FF87FF8#32).getLsbD p = true := by decide
  rw [ept_eq j hy hw, eptEntry, getLsbD_scatter, List.any_eq_true] at h
  obtain ⟨bit, -, hbit⟩ := h
  rw [Bool.and_eq_true] at hbit
  exact hmask (bit % 24) (Nat.mod_lt _ (by decide)) p hp hbit.2

theorem isELayout_ept {y : Nat} (j : Byte) (hy : y < 4) : isELayout (ept y j 0 ++ ept y j 1) := by
  have hmask : ∀ p < 64, (0x7FF87FF8#32).getLsbD (p % 32) = eLayoutMask.getLsbD p := by decide
  rw [isELayout_iff]
  intro p hp h
  rw [getLsbD_append32] at h
  rw [← hmask p hp]
  split_ifs at h with hlow
  · rw [Nat.mod_eq_of_lt hlow]
    exact ept_data_positions j hy (by decide) hlow h
  · rw [show p % 32 = p - 32 by omega]
    exact ept_data_positions j hy (by decide) (by omega) h

theorem isELayout_expandPermute (tp : Word) : isELayout (expandPermute tp) := by
  unfold expandPermute
  refine List.foldlRecOn (motive := isELayout) _ _ isELayout_zero fun v hv y hy => ?_
  exact isELayout_or hv (isELayout_ept _ (List.mem_range.mp hy))

theorem isELayout_base {b i : Nat} (hb : b < 4) (hi : i < 4096) : isELayout (base b i) := by
  rw [base_eq hb hi]
  exact isELayout_expandPermute _

theorem isELayout_bankEntry {s : State} (h : BanksMatchMask s) {b i : Nat} (hb : b < 4) (hi : i < 4096) :
    isELayout (bankEntry s b i) := by
  rw [h b i hb hi]
  exact isELayout_shuf1 s.mask (isELayout_base hb hi)

variable {s : State} (hbanks : BanksMatchMask s)
include hbanks

theorem isELayout_feistelF {x f : DWord} (h : feistelF s x = some f) : isELayout f := by
  by_cases ha : chunksAligned x
  · have hchunk : ∀ c : BitVec 16, c.toNat / 0x8000 < 2 := fun c => by have := c.isLt; omega
    have hindex : ∀ c : BitVec 16, c.toNat % 0x8000 / 8 < 4096 := fun c => by omega
    have hlow : ∀ c : BitVec 16, isELayout (bankEntry s (c.toNat / 0x8000) (c.toNat % 0x8000 / 8)) := fun c =>
      isELayout_bankEntry hbanks (by have := hchunk c; omega) (hindex c)
    have hhigh : ∀ c : BitVec 16, isELayout (bankEntry s (2 + c.toNat / 0x8000) (c.toNat % 0x8000 / 8)) := fun c =>
      isELayout_bankEntry hbanks (by have := hchunk c; omega) (hindex c)
    rw [feistelF_of_aligned s ha] at h
    cases h
    exact isELayout_xor (isELayout_xor (isELayout_xor (hhigh _) (hhigh _)) (hlow _)) (hlow _)
  · rw [feistelF_of_not_aligned s ha] at h
    cases h

theorem isELayout_subStep {k0 k1 : DWord} {lr lr' : DWord × DWord} (h : subStep s k0 k1 lr = some lr')
    (hlr : isELayout lr.1 ∧ isELayout lr.2) : isELayout lr'.1 ∧ isELayout lr'.2 := by
  unfold subStep at h
  split at h
  · cases h
  · rename_i f hf
    split at h
    · cases h
    · rename_i g hg
      cases h
      exact ⟨isELayout_xor hlr.1 (isELayout_feistelF hbanks hf), isELayout_xor hlr.2 (isELayout_feistelF hbanks hg)⟩

theorem isELayout_subSteps (ks : List DWord) {lr lr' : DWord × DWord} (h : subSteps s ks lr = some lr')
    (hlr : isELayout lr.1 ∧ isELayout lr.2) : isELayout lr'.1 ∧ isELayout lr'.2 := by
  induction ks using List.twoStepInduction generalizing lr with
  | nil => cases h; exact hlr
  | singleton k => cases h; exact hlr
  | cons_cons k0 k1 rest ih _ =>
    rw [subSteps] at h
    split at h
    · cases h
    · rename_i mid hmid
      exact ih h (isELayout_subStep hbanks hmid hlr)

theorem isELayout_iterations (n : Nat) {lr lr' : DWord × DWord} (h : iterations s n lr = some lr')
    (hlr : isELayout lr.1 ∧ isELayout lr.2) : isELayout lr'.1 ∧ isELayout lr'.2 := by
  induction n generalizing lr with
  | zero => cases h; exact hlr
  | succ n ih =>
    rw [iterations] at h
    split at h
    · cases h
    · rename_i mid hmid
      refine ih h ?_
      unfold iteration at hmid
      split at hmid
      · cases hmid
      · rename_i last hlast
        cases hmid
        exact (isELayout_subSteps hbanks _ hlast hlr).symm

/-- R39: RunFeistel's halves are E-layout words. -/
theorem isELayout_runFeistel {lr : DWord × DWord} (h : runFeistel s = some lr) : isELayout lr.1 ∧ isELayout lr.2 :=
  isELayout_iterations hbanks _ h ⟨isELayout_zero, isELayout_zero⟩

end Sys2Proof.Machine
end

section
/-!
PROOFS. INV-BANK (10_state.md R37): the bank writes of INIT, RESET, SALTPERM and DIGEST each leave SHUF1(BASE, MASK)
under the mask they leave.
-/
namespace Sys2Proof.Machine

theorem banksMatchMask_congr {s t : State} (hb : t.bank = s.bank) (hm : t.mask = s.mask) (h : BanksMatchMask s) :
    BanksMatchMask t := fun b i hb4 hi => by
  rw [bankEntry_congr hb hm, hm]
  exact h b i hb4 hi

theorem banksMatchMask_initBanks (s : State) : BanksMatchMask (initBanks s) := banksMatchMask_of_unlisted rfl

theorem banksMatchMask_applySalt {s : State} (h : BanksMatchMask s) : BanksMatchMask (applySalt s) := by
  intro b i hb hi
  rw [bankEntry_applySalt, h b i hb hi, shuf1_shuf1, applySalt_mask, ← BitVec.xor_assoc, BitVec.xor_self,
    BitVec.zero_xor]

theorem banksMatchMask_prepareDigest {s : State} (h : BanksMatchMask s) : BanksMatchMask (prepareDigest s) :=
  banksMatchMask_applySalt (banksMatchMask_congr (runKeyScheduler_bank s) (runKeyScheduler_mask s) h)

theorem banksMatchMask_unapplySalt {s : State} (h : BanksMatchMask s) : BanksMatchMask (unapplySalt s) := by
  intro b i hb hi
  rw [bankEntry_unapplySalt, h b i hb hi, shuf1_shuf1, unapplySalt_mask, BitVec.xor_self]
  rfl

theorem Completes.banksMatchMask {s u : State} {i : Instr} (hc : Completes s i u) (h : BanksMatchMask s) :
    BanksMatchMask u := by
  cases hc with
  | init => exact banksMatchMask_initBanks s
  | reset => exact banksMatchMask_unapplySalt (banksMatchMask_congr rfl rfl h)
  | saltperm => exact banksMatchMask_applySalt h
  | digest => exact banksMatchMask_congr (by simp) (by simp) (banksMatchMask_prepareDigest h)
  | _ => exact banksMatchMask_congr (by simp) (by simp) h

theorem Violates.banksMatchMask {s u : State} {i : Instr} (hv : Violates s i u) (h : BanksMatchMask s) :
    BanksMatchMask u := by
  cases hv with
  | feistel => exact h
  | digest => exact banksMatchMask_prepareDigest h

theorem step_banksMatchMask {s t : State} (h : BanksMatchMask s) (hstep : step s = .next t) : BanksMatchMask t :=
  step_keeps (fun _ _ h => banksMatchMask_congr rfl rfl h) (fun _ _ h => banksMatchMask_congr rfl rfl h)
    (banksMatchMask_of_unlisted rfl) (fun _ _ _ h hc => hc.banksMatchMask h)
    (fun _ _ _ h hv => banksMatchMask_congr rfl rfl (hv.banksMatchMask h)) h hstep

/-- Settles O53: every end of a command keeps INV-BANK, and RDBANK reads the entry the invariant gives. -/
theorem bankInvariantKept : Obligations.BankInvariantKept := by
  refine ⟨banksMatchMask_of_unlisted rfl, fun s h => ⟨fun t => step_banksMatchMask h, fun b i => ?_⟩⟩
  rw [← h b.toNat i.toNat b.isLt i.isLt]
  rfl

end Sys2Proof.Machine
end

section
/-!
PROOFS. The other invariants of 10_state.md, one by one over the completed commands, and then all together over a step.
-/
namespace Sys2Proof.Machine

/-! ## The key buffer (R31, R32) -/

theorem keyByte_bit7 (b : Byte) : (keyByte b).getLsbD 7 = false := by simp [keyByte]

theorem keyBufferLegal_congr {s u : State} (hk : u.kbuf = s.kbuf) (hc : u.kcount = s.kcount) (h : KeyBufferLegal s) :
    KeyBufferLegal u := by
  rw [KeyBufferLegal, hk, hc]
  exact h

theorem keyBufferLegal_of_reset {s : State} (hk : s.kbuf = State.reset.kbuf) (hc : s.kcount = 0) :
    KeyBufferLegal s := by
  refine ⟨by simp [hc], fun k hlt => ?_⟩
  have h0 : s.kbuf[k] = 0 := by simp only [hk, reset_kbuf k hlt]
  exact ⟨by simp [h0], fun _ => h0⟩

theorem keyBufferLegal_appendKeyByte {s : State} (b : Byte) (h : KeyBufferLegal s) :
    KeyBufferLegal (appendKeyByte s b) := by
  by_cases hroom : s.kcount.toNat < 8
  · have hnext : (s.kcount + 1).toNat = s.kcount.toNat + 1 := by
      rw [BitVec.toNat_add]; simp; omega
    rw [appendKeyByte_of_room b hroom]
    refine ⟨by show (s.kcount + 1).toNat ≤ 8; omega, fun k hk => ?_⟩
    by_cases e : s.kcount.toNat = k
    · subst e
      simp only [Vector.getElem_set_self, hnext]
      exact ⟨keyByte_bit7 b, fun hle => absurd hle (by omega)⟩
    · simp only [Vector.getElem_set_ne _ _ e, hnext]
      exact ⟨(h.2 k hk).1, fun hle => (h.2 k hk).2 (by omega)⟩
  · rw [appendKeyByte_of_full b (by omega)]
    exact h

theorem Completes.keyBufferLegal {s u : State} {i : Instr} (hc : Completes s i u) (h : KeyBufferLegal s) :
    KeyBufferLegal u := by
  cases hc with
  | reset => exact keyBufferLegal_of_reset (by simp) (by simp)
  | update b => exact keyBufferLegal_appendKeyByte b h
  | _ => exact keyBufferLegal_congr (by simp) (by simp) h

/-! ## The salt and its mask (R35, R36) -/

theorem Completes.saltLegal {s u : State} {i : Instr} (hc : Completes s i u) (h : SaltLegal s) : SaltLegal u := by
  cases hc with
  | reset => intro hv; simp at hv
  | setsalt c0 c1 h0 h1 => exact fun _ => ⟨h0, h1⟩
  | _ => simpa [SaltLegal] using h

theorem maskLegal_of_saltMask {s u : State} (h : SaltLegal s) (hv : s.saltv = true)
    (hm : u.mask = saltMask s.salt[0] s.salt[1]) : MaskLegal u :=
  .inr ⟨_, _, (h hv).1, (h hv).2, hm⟩

theorem Completes.maskLegal {s u : State} {i : Instr} (hc : Completes s i u) (hsalt : SaltLegal s)
    (h : MaskLegal s) : MaskLegal u := by
  cases hc with
  | init => exact .inl rfl
  | reset => exact .inl (unapplySalt_mask _)
  | saltperm hv => exact maskLegal_of_saltMask hsalt hv (applySalt_mask s)
  | digest hv => exact maskLegal_of_saltMask hsalt hv (by simp [prepareDigest_mask])
  | _ => simpa [MaskLegal] using h

/-! ## The cell list (log entry 4) -/

theorem Completes.cellsCanonical {s u : State} {i : Instr} (hc : Completes s i u) (h : CellsCanonical s) :
    CellsCanonical u := by
  cases hc with
  | init => exact memoryWf_initBanks s
  | reset => exact memoryWf_unapplySalt (s := clearContext s) h
  | saltperm => exact memoryWf_applySalt h
  | digest => simpa [CellsCanonical] using memoryWf_prepareDigest h
  | _ => simpa [CellsCanonical] using h

/-! ## The schedule (R38) -/

theorem scheduleLegal_congr {s u : State} (hk : u.ks = s.ks) (h : ScheduleLegal s) : ScheduleLegal u := by
  rw [ScheduleLegal, hk]
  exact h

theorem scheduleLegal_of_scheduleOf {s : State} {key : Vector Byte 8} (hk : s.ks = scheduleOf key) : ScheduleLegal s :=
  .inr ⟨key, hk⟩

theorem Completes.scheduleLegal {s u : State} {i : Instr} (hc : Completes s i u) (h : ScheduleLegal s) :
    ScheduleLegal u := by
  cases hc with
  | reset => exact .inl (by simpa using reset_ks)
  | ksched => exact scheduleLegal_of_scheduleOf (runKeyScheduler_ks s)
  | digest => exact scheduleLegal_congr (by simp) (scheduleLegal_of_scheduleOf (prepareDigest_ks s))
  | _ => exact scheduleLegal_congr (by simp) h

/-! ## The halves (R39) -/

theorem Completes.halvesLegal {s u : State} {i : Instr} (hc : Completes s i u) (hbanks : BanksMatchMask s)
    (h : HalvesLegal s) : HalvesLegal u := by
  cases hc with
  | reset =>
    simp only [HalvesLegal, unapplySalt_l, unapplySalt_r, clearContext_l, clearContext_r]
    exact ⟨isELayout_zero, isELayout_zero⟩
  | feistel lr run => exact isELayout_runFeistel hbanks run
  | digest _ _ lr run => simpa [HalvesLegal] using isELayout_runFeistel (banksMatchMask_prepareDigest hbanks) run
  | _ => simpa [HalvesLegal] using h

/-! ## The output (44_output.md R263, R264, R267) -/

theorem inAlphabet_alpha (v : BitVec 6) : inAlphabet (alpha v) := by
  unfold inAlphabet
  revert v
  decide

theorem inAlphabet_outputChar (block : DWord) (i : Nat) : inAlphabet (outputChar block i) := inAlphabet_alpha _

/-- The last group holds the block's last four bits and two zero bits. -/
theorem outputChar_last (block : DWord) : outputChar block 10 = alpha (block.extractLsb' 0 4 ++ 0#2) := by
  refine congrArg alpha (BitVec.eq_of_getLsbD_eq fun p hp => ?_)
  rw [BitVec.getLsbD_append (x := block.extractLsb' 0 4)]
  interval_cases p <;> simp

theorem outputLegal_congr {s u : State} (ho : u.out = s.out) (hv : u.outv = s.outv) (h : OutputLegal s) :
    OutputLegal u := by
  rw [OutputLegal, ho, hv]
  exact h

theorem outputLegal_runOutputEncoder {s : State} (h : SaltLegal s) (hv : s.saltv = true) :
    OutputLegal (runOutputEncoder s) := by
  obtain ⟨h0, h1⟩ := h hv
  refine fun _ => ⟨fun i hi => ?_, (finalBlock s.mask s.l s.r).extractLsb' 0 4, outputChar_last _⟩
  simp only [runOutputEncoder_out]
  interval_cases i
  · exact h0
  · exact h1
  all_goals exact inAlphabet_outputChar _ _

theorem Completes.outputLegal {s u : State} {i : Instr} (hc : Completes s i u) (hsalt : SaltLegal s)
    (h : OutputLegal s) : OutputLegal u := by
  cases hc with
  | reset => intro hv; simp at hv
  | outenc hv => exact outputLegal_runOutputEncoder hsalt hv
  | digest hv _ lr =>
    have hsalt' : SaltLegal (setHalves (prepareDigest s) lr) := by simpa [SaltLegal] using hsalt
    exact outputLegal_congr (finalize_out _) (finalize_outv _) (outputLegal_runOutputEncoder hsalt' (by simpa using hv))
  | _ => exact outputLegal_congr (by simp) (by simp) h

/-! ## ERR (60_exceptions.md R341) -/

theorem errorCode_le_six (e : ErrorCode) : e.code ≤ 6 := by cases e <;> decide

theorem Completes.err_eq {s u : State} {i : Instr} (hc : Completes s i u) : u.err = s.err := by
  cases hc <;> simp

/-! ## All of them -/

theorem Completes.legal {s u : State} {i : Instr} (hc : Completes s i u) (h : Legal s) : Legal u where
  keyBuffer := hc.keyBufferLegal h.keyBuffer
  salt := hc.saltLegal h.salt
  mask := hc.maskLegal h.salt h.mask
  banks := hc.banksMatchMask h.banks
  cells := hc.cellsCanonical h.cells
  schedule := hc.scheduleLegal h.schedule
  halves := hc.halvesLegal h.banks h.halves
  output := hc.outputLegal h.salt h.output
  err := by rw [ErrLegal, hc.err_eq]; exact h.err

theorem legal_prepareDigest {s : State} (h : Legal s) (hv : s.saltv = true) : Legal (prepareDigest s) where
  keyBuffer := keyBufferLegal_congr (by simp) (by simp) h.keyBuffer
  salt := by simpa [SaltLegal] using h.salt
  mask := maskLegal_of_saltMask h.salt hv (prepareDigest_mask s)
  banks := banksMatchMask_prepareDigest h.banks
  cells := memoryWf_prepareDigest h.cells
  schedule := scheduleLegal_of_scheduleOf (prepareDigest_ks s)
  halves := by simpa [HalvesLegal] using h.halves
  output := outputLegal_congr (by simp) (by simp) h.output
  err := by simpa [ErrLegal] using h.err

theorem Violates.legal {s u : State} {i : Instr} (hv : Violates s i u) (h : Legal s) : Legal u := by
  cases hv with
  | feistel => exact h
  | digest salted => exact legal_prepareDigest h salted

theorem legal_withPort {s : State} (rest : List PortEvent) (h : Legal s) : Legal { s with port := rest } :=
  ⟨h.keyBuffer, h.salt, h.mask, h.banks, h.cells, h.schedule, h.halves, h.output, h.err⟩

theorem legal_raise {s : State} (e : ErrorCode) (h : Legal s) : Legal (raise e s) :=
  ⟨h.keyBuffer, h.salt, h.mask, h.banks, h.cells, h.schedule, h.halves, h.output, errorCode_le_six e⟩

/-- The violation takes OUTV with it, so no claim about OUT is left. -/
theorem legal_raiseFatal {s : State} (h : Legal s) : Legal (raiseFatal s) :=
  ⟨h.keyBuffer, h.salt, h.mask, h.banks, h.cells, h.schedule, h.halves, fun hv => by simp at hv, errorCode_le_six _⟩

theorem legal_reset : Legal State.reset where
  keyBuffer := keyBufferLegal_of_reset rfl rfl
  salt := fun hv => by simp at hv
  mask := .inl rfl
  banks := banksMatchMask_of_unlisted rfl
  cells := cellsCanonical_of_unlisted rfl
  schedule := .inl reset_ks
  halves := ⟨isELayout_zero, isELayout_zero⟩
  output := fun hv => by simp at hv
  err := errorCode_le_six .ok

/-- Settles O52. -/
theorem legalAtReset : Obligations.LegalAtReset := ⟨legal_reset, rfl⟩

/-- Settles O56: each completed command and the violation keep every invariant, and an error writes ERR alone. -/
theorem stateInvariantsKept : Obligations.StateInvariantsKept := fun _ _ h hstep =>
  step_keeps (fun _ rest h => legal_withPort rest h) (fun _ e h => legal_raise e h) legal_reset
    (fun _ _ _ h hc => hc.legal h) (fun _ _ _ h hv => legal_raiseFatal (hv.legal h)) h hstep

/-! ## The table of R49 -/

/-- Settles O1: with no cell listed and MASK = 0 every entry is BASE's. -/
theorem resetState : Obligations.ResetState := by
  have hbanks : ∀ b i, b < 4 → i < 4096 → bankEntry State.reset b i = base b i := fun b i _ hi => by
    rw [bankEntry_of_unlisted rfl b hi]
    exact shuf1_zero _
  exact ⟨reset_kbuf, rfl, rfl, reset_salt 0 (by decide), reset_salt 1 (by decide), rfl, rfl, hbanks, reset_ks, rfl, rfl,
    reset_out, rfl, rfl, rfl, rfl, by decide⟩

end Sys2Proof.Machine
end

section
/-!
PROOFS. FATAL (10_state.md R43) over the ends of a command.
-/
namespace Sys2Proof.Machine

theorem Completes.fatal_eq {s u : State} {i : Instr} (hc : Completes s i u) : u.fatal = s.fatal := by
  cases hc <;> simp

theorem Ends.fatal_of_fatal {s t : State} {i : Instr} (h : Ends s i t) (hf : s.fatal = true) : t.fatal = true := by
  cases h with
  | illegal | refused => exact hf
  | completed u hc => exact hc.fatal_eq.trans hf
  | violated => rfl

/-- From FATAL = 0 the violation alone leaves FATAL = 1, and it alone leaves ERR = 3. -/
theorem Ends.fatal_iff_err {s t : State} {i : Instr} (h : Ends s i t) (hf : s.fatal = false) :
    t.fatal = true ↔ t.err = 3 := by
  cases h with
  | illegal => simp [illegalCommand, hf, ErrorCode.code]
  | refused e why => simpa [hf] using (firstError_code why).2
  | completed u hc => simp [hc.fatal_eq, hf]
  | violated => simp

/-- FATAL stops the command before its own meaning: it is refused with Halted (60_exceptions.md R349). -/
theorem exec_of_fatal {s : State} {i : Instr} (hf : s.fatal = true) (hwf : i.wellFormed = true)
    (hi : acceptedWhileFatal i = false) : exec i s = .next (raise .halted s) := by
  cases i with
  | setsalt n c0 c1 =>
    have hn : n ≠ 3 := by simpa [Instr.wellFormed] using hwf
    rw [exec, execSetsalt, if_neg hn, unlessHalted_of_fatal _ hf]
  | nop | rdbank | rdks | rdreg => cases hi
  | _ => exact congrArg Host.Outcome.next (unlessHalted_of_fatal _ hf)

theorem runWord_fatal_of_fatal {w : Word} {s t : State} (h : runWord w s = .next t) (hf : s.fatal = true) :
    t.fatal = true := by
  obtain ⟨i, -, hends⟩ | rfl := runWord_cases h
  · exact hends.fatal_of_fatal hf
  · exact hf

theorem runWord_fatal_iff_err {w : Word} {s t : State} (h : runWord w s = .next t) (hf : s.fatal = false) :
    t.fatal = true ↔ t.err = 3 := by
  obtain ⟨i, -, hends⟩ | rfl := runWord_cases h
  · exact hends.fatal_iff_err hf
  · simp [illegalCommand, hf, ErrorCode.code]

/-- A step that clears FATAL took the reset input from the port. -/
theorem hardwareReset_of_step_clears_fatal {s t : State} (h : step s = .next t) (hf : s.fatal = true)
    (ht : t.fatal = false) : ∃ rest, s.port = .hardwareReset :: rest := by
  cases hp : s.port with
  | nil =>
    rw [step_of_empty hp] at h
    cases h
    simp [hf] at ht
  | cons ev rest =>
    cases ev with
    | hardwareReset => exact ⟨rest, rfl⟩
    | command w =>
      rw [step_of_command hp] at h
      simp [runWord_fatal_of_fatal h hf] at ht

/-- Settles O16. -/
theorem fatalIsSticky : Obligations.FatalIsSticky :=
  ⟨fun _ _ _ => runWord_fatal_of_fatal, fun _ _ _ => runWord_fatal_iff_err,
    fun _ _ => hardwareReset_of_step_clears_fatal, fun _ _ hp => ⟨_, step_of_hardwareReset hp, rfl⟩,
    fun _ _ => exec_of_fatal⟩

end Sys2Proof.Machine
end

section
/-!
PROOFS. The views DSTATE and STATUS (10_state.md R34, R41).
-/
namespace Sys2Proof.Machine

/-- STATUS has thirteen bits, the last one FATAL. -/
theorem getLsbD_status_of_ge (s : State) {p : Nat} (hp : 13 ≤ p) : (status s).getLsbD p = false := by
  rw [status, BitVec.getLsbD_setWidth, BitVec.getLsbD_of_ge _ p hp, Bool.and_false]

/-- STATUS bit by bit. -/
theorem getLsbD_status (s : State) {p : Nat} (hp : p < 13) :
    (status s).getLsbD p =
      if p < 2 then (dstate s).code.getLsbD p else if p < 6 then s.kcount.getLsbD (p - 2)
      else if p < 7 then s.saltv else if p < 8 then s.outv else if p < 12 then s.err.getLsbD (p - 8)
      else s.fatal := by
  simp only [status, BitVec.getLsbD_setWidth, BitVec.getLsbD_append]
  interval_cases p <;> simp

theorem dstate_code (s : State) : (dstate s).code = if s.fin then 2 else if 0 < s.kcount then 1 else 0 := by
  cases hfin : s.fin
  · by_cases hk : s.kcount = 0
    · simp [dstate, DState.code, hfin, hk]
    · have hpos : 0 < s.kcount := (BitVec.pos_iff_ne_zero _).mpr hk
      simp only [dstate, hfin, Bool.false_eq_true, if_false, if_neg hk, if_pos hpos, DState.code]
  · simp [dstate, DState.code, hfin]

theorem dstate_code_ne_three (d : DState) : d.code ≠ 3 := by cases d <;> decide

theorem status_dstate (s : State) : (status s).extractLsb' 0 2 = (dstate s).code := by
  apply BitVec.eq_of_getLsbD_eq
  intro p hp
  rw [BitVec.getLsbD_extractLsb', getLsbD_status s (by omega)]
  simp [hp]

theorem status_kcount (s : State) : (status s).extractLsb' 2 4 = s.kcount := by
  apply BitVec.eq_of_getLsbD_eq
  intro p hp
  rw [BitVec.getLsbD_extractLsb', getLsbD_status s (by omega)]
  interval_cases p <;> simp

theorem status_err (s : State) : (status s).extractLsb' 8 4 = s.err := by
  apply BitVec.eq_of_getLsbD_eq
  intro p hp
  rw [BitVec.getLsbD_extractLsb', getLsbD_status s (by omega)]
  interval_cases p <;> simp

theorem status_zeros (s : State) : (status s).extractLsb' 13 19 = 0 := by
  apply BitVec.eq_of_getLsbD_eq
  intro p hp
  rw [BitVec.getLsbD_extractLsb', getLsbD_status_of_ge s (by omega)]
  simp

/-- Read as RDATA, STATUS keeps its ERR field. -/
theorem statusView_err (s : State) : ((status s).setWidth 64).extractLsb' 8 4 = s.err := by
  rw [← status_err s]
  apply BitVec.eq_of_getLsbD_eq
  intro p hp
  have hp64 : 8 + p < 64 := by omega
  simp [hp64]

/-- Settles O10: the second RDREG 0 reads the ERR = 0 that the first one left. -/
theorem statusWord : Obligations.StatusWord := fun s =>
  ⟨dstate_code s, dstate_code_ne_three _, status_dstate s, status_kcount s, getLsbD_status s (by decide),
    getLsbD_status s (by decide), status_err s, getLsbD_status s (by decide), status_zeros s,
    _, rfl, rfl, _, rfl, statusView_err _⟩

end Sys2Proof.Machine
end

section
/-!
PROOFS. The write matrix (10_state.md R48): the frame of each operation, once, and the frame of a command as the
composition of its operations' frames.
-/
namespace Sys2Proof.Machine

/-- Every piece of state outside `ps` is the same in both states. -/
def SameBut (ps : List Piece) (s t : State) : Prop := ∀ p, p ∉ ps → samePiece s t p

theorem samePiece_trans {s t u : State} {p : Piece} (h : samePiece s t p) (h' : samePiece t u p) :
    samePiece s u p := by
  cases p with
  | bank => exact fun a ha => (h' a ha).trans (h a ha)
  | _ => exact Eq.trans h' h

theorem SameBut.trans {ps qs : List Piece} {s t u : State} (h : SameBut ps s t) (h' : SameBut qs t u) :
    SameBut (ps ++ qs) s u := fun p hp => by
  rw [List.mem_append, not_or] at hp
  exact samePiece_trans (h p hp.1) (h' p hp.2)

theorem SameBut.mono {ps qs : List Piece} {s t : State} (h : SameBut ps s t) (hsub : ps ⊆ qs) : SameBut qs s t :=
  fun p hp => h p fun hmem => hp (hsub hmem)

theorem sameBut_refl (s : State) : SameBut [] s s := fun p _ => by cases p <;> simp [samePiece]

/-- An operation that writes no cell and no mask leaves every byte of the banks. -/
theorem samePiece_bank {s t : State} (hb : t.bank = s.bank) (hm : t.mask = s.mask) : samePiece s t .bank :=
  fun a _ => bankByte_congr hb hm a

/-! ## One frame per operation -/

variable (s : State)

theorem sameBut_raise (e : ErrorCode) : SameBut [] s (raise e s) := fun p _ => by
  cases p <;> simp [samePiece, bankByte]

theorem sameBut_raiseFatal : SameBut [.outv, .fatal] s (raiseFatal s) := fun p _ => by
  cases p <;> simp_all [samePiece, bankByte]

theorem sameBut_initBanks : SameBut [.bank, .mask] s (initBanks s) := fun p _ => by
  cases p <;> simp_all [samePiece]

theorem sameBut_clearContext :
    SameBut [.kbuf, .kcount, .fin, .salt, .saltv, .ks, .l, .r, .out, .outv, .rdata] s (clearContext s) := fun p _ => by
  cases p <;> simp_all [samePiece, bankByte]

theorem sameBut_unapplySalt : SameBut [.bank, .mask] s (unapplySalt s) := fun p _ => by
  cases p <;> simp_all [samePiece]

theorem sameBut_appendKeyByte (b : Byte) : SameBut [.kbuf, .kcount] s (appendKeyByte s b) := fun p _ => by
  cases p <;> simp_all [samePiece, bankByte]

theorem sameBut_storeSalt (c0 c1 : Byte) : SameBut [.salt, .saltv] s (storeSalt s c0 c1) := fun p _ => by
  cases p <;> simp_all [samePiece, bankByte]

theorem sameBut_runKeyScheduler : SameBut [.ks] s (runKeyScheduler s) := fun p _ => by
  cases p <;> simp_all [samePiece, bankByte]

theorem sameBut_applySalt : SameBut [.bank, .mask] s (applySalt s) := fun p _ => by
  cases p <;> simp_all [samePiece]

theorem sameBut_setHalves (lr : DWord × DWord) : SameBut [.l, .r] s (setHalves s lr) := fun p _ => by
  cases p <;> simp_all [samePiece, bankByte]

theorem sameBut_runOutputEncoder : SameBut [.out, .outv] s (runOutputEncoder s) := fun p _ => by
  cases p <;> simp_all [samePiece, bankByte]

theorem sameBut_finalize : SameBut [.fin] s (finalize s) := fun p _ => by
  cases p <;> simp_all [samePiece, bankByte]

theorem sameBut_setRdata (v : DWord) : SameBut [.rdata] s (setRdata s v) := fun p _ => by
  cases p <;> simp_all [samePiece, bankByte]

theorem sameBut_prepareDigest : SameBut [.ks, .bank, .mask] s (prepareDigest s) :=
  (sameBut_runKeyScheduler s).trans (sameBut_applySalt _)

/-! ## The frame of a command -/

variable {s}

/-- A completed command writes the pieces of its row. -/
theorem Completes.sameBut {u : State} {i : Instr} (hc : Completes s i u) : SameBut (writesOf i) s u := by
  cases hc with
  | nop => exact sameBut_refl s
  | init => exact sameBut_initBanks s
  | reset => exact ((sameBut_clearContext s).trans (sameBut_unapplySalt _)).mono (by decide)
  | update b => exact sameBut_appendKeyByte s b
  | setsalt c0 c1 => exact sameBut_storeSalt s c0 c1
  | ksched => exact sameBut_runKeyScheduler s
  | saltperm => exact sameBut_applySalt s
  | feistel lr => exact sameBut_setHalves s lr
  | outenc => exact sameBut_runOutputEncoder s
  | digest _ _ lr =>
    exact (sameBut_prepareDigest s).trans <| (sameBut_setHalves _ lr).trans <|
      (sameBut_runOutputEncoder _).trans (sameBut_finalize _)
  | rdbank | rdks | rdreg => exact sameBut_setRdata s _

/-- What a violation of FEISTEL or DIGEST leaves written besides ERR (60_exceptions.md R344). -/
def violationWrites : Instr → List Piece
  | .digest => [.ks, .bank, .mask, .outv, .fatal]
  | _ => [.outv, .fatal]

theorem Violates.sameBut {u : State} {i : Instr} (hv : Violates s i u) :
    SameBut (violationWrites i) s (raiseFatal u) := by
  cases hv with
  | feistel => exact sameBut_raiseFatal s
  | digest => exact (sameBut_prepareDigest s).trans (sameBut_raiseFatal _)

theorem Ends.sameBut_of_success {t : State} {i : Instr} (h : Ends s i t) (herr : t.err = 0) :
    SameBut (writesOf i) s t := by
  cases h with
  | illegal => cases herr
  | refused e why => exact absurd herr (firstError_code why).1
  | completed u hc => exact (hc.sameBut.trans (sameBut_raise u .ok)).mono (by simp)
  | violated => cases herr

theorem Ends.sameBut_of_error {t : State} {i : Instr} (h : Ends s i t) (h0 : t.err ≠ 0) (h3 : t.err ≠ 3) :
    SameBut [] s t := by
  cases h with
  | illegal | refused => exact sameBut_raise s _
  | completed => exact absurd rfl h0
  | violated => exact absurd rfl h3

theorem Ends.sameBut_of_violation {t : State} {i : Instr} (h : Ends s i t) (h3 : t.err = 3) :
    SameBut (violationWrites i) s t := by
  cases h with
  | illegal => cases h3
  | refused e why => exact absurd h3 (firstError_code why).2
  | completed => cases h3
  | violated _ u hv => exact hv.sameBut

theorem not_mem_violationWrites {i : Instr} {p : Piece} (houtv : p ≠ .outv) (hfatal : p ≠ .fatal)
    (hdigest : i = .digest → p ≠ .ks ∧ p ≠ .bank ∧ p ≠ .mask) : p ∉ violationWrites i := by
  cases i <;> simp_all [violationWrites]

/-- UPDATE writes at most the one entry KBUF[KCOUNT], and nothing when the buffer is full. -/
theorem Ends.update_kbuf {t : State} {b : Byte} (h : Ends s (.update b) t) :
    (8 ≤ s.kcount.toNat → samePiece s t .kbuf ∧ samePiece s t .kcount) ∧
      ∀ k (hk : k < 8), k ≠ s.kcount.toNat → t.kbuf[k] = s.kbuf[k] := by
  cases h with
  | illegal | refused => exact ⟨fun _ => ⟨rfl, rfl⟩, fun _ _ _ => rfl⟩
  | completed u hc =>
    cases hc with
    | update =>
      by_cases hroom : s.kcount.toNat < 8
      · refine ⟨fun hfull => absurd hroom (Nat.not_lt.mpr hfull), fun k hk hne => ?_⟩
        simp [appendKeyByte_of_room b hroom, Vector.getElem_set_ne _ _ hne.symm]
      · rw [appendKeyByte_of_full b (Nat.not_lt.mp hroom)]
        exact ⟨fun _ => ⟨rfl, rfl⟩, fun _ _ _ => rfl⟩
  | violated _ u hv => cases hv

/-- SALTPERM's memo hit writes neither the banks nor MASK (42_salt.md R204). -/
theorem Ends.saltperm_memo {t : State} (h : Ends s .saltperm t) (hmemo : saltMask s.salt[0] s.salt[1] = s.mask) :
    samePiece s t .bank ∧ samePiece s t .mask := by
  cases h with
  | illegal | refused => exact ⟨samePiece_bank rfl rfl, rfl⟩
  | completed u hc =>
    cases hc with
    | saltperm =>
      rw [applySalt_of_memo hmemo]
      exact ⟨samePiece_bank rfl rfl, rfl⟩
  | violated _ u hv => cases hv

/-- Settles O18. -/
theorem writeMatrix : Obligations.WriteMatrix := by
  intro i s t h
  have hends := ends_of_exec h
  refine ⟨hends.sameBut_of_success, fun h0 h3 p => hends.sameBut_of_error h0 h3 p List.not_mem_nil, ?_, ?_, ?_⟩
  · exact fun h3 p houtv hfatal hdigest =>
      hends.sameBut_of_violation h3 p (not_mem_violationWrites houtv hfatal hdigest)
  · rintro b rfl
    exact hends.update_kbuf
  · rintro rfl
    exact hends.saltperm_memo

end Sys2Proof.Machine
end

section
/-!
PROOFS. The port (20_memory.md R79, 30_encoding.md R100): a command neither reads nor writes it, so a command does the
same whatever waits behind it, and a run over loaded words is the sequence of their commands.
-/
namespace Sys2Proof.Machine

/-- The state with other events waiting on the port. -/
def withPort (p : List PortEvent) (s : State) : State := { s with port := p }

/-! ## The operations that branch -/

section

variable (p : List PortEvent) (s : State)

theorem unlessHalted_withPort {done' done : State} (h : done' = withPort p done) :
    unlessHalted (withPort p s) done' = withPort p (unlessHalted s done) := by
  rw [h, unlessHalted, unlessHalted, apply_ite (withPort p)]
  rfl

theorem unapplySalt_withPort : unapplySalt (withPort p s) = withPort p (unapplySalt s) := by
  rw [unapplySalt, unapplySalt, apply_ite (withPort p)]
  rfl

theorem applySalt_withPort : applySalt (withPort p s) = withPort p (applySalt s) := by
  rw [applySalt, applySalt, apply_ite (withPort p)]
  rfl

theorem prepareDigest_withPort : prepareDigest (withPort p s) = withPort p (prepareDigest s) :=
  applySalt_withPort p (runKeyScheduler s)

theorem appendKeyByte_withPort (b : Byte) : appendKeyByte (withPort p s) b = withPort p (appendKeyByte s b) := by
  by_cases hroom : s.kcount.toNat < 8
  · rw [appendKeyByte_of_room b hroom]
    exact appendKeyByte_of_room (s := withPort p s) b hroom
  · rw [appendKeyByte_of_full b (Nat.not_lt.mp hroom)]
    exact appendKeyByte_of_full (s := withPort p s) b (Nat.not_lt.mp hroom)

theorem runFeistel_withPort : runFeistel (withPort p s) = runFeistel s :=
  runFeistel_congr (fun _ _ => rfl) rfl

theorem runDigest_withPort : runDigest (withPort p s) = withPort p (runDigest s) := by
  have hrun : runFeistel (prepareDigest (withPort p s)) = runFeistel (prepareDigest s) := by
    rw [prepareDigest_withPort, runFeistel_withPort]
  cases h : runFeistel (prepareDigest s) with
  | some lr => rw [runDigest_of_some h, runDigest_of_some (hrun.trans h), prepareDigest_withPort]; rfl
  | none => rw [runDigest_of_none h, runDigest_of_none (hrun.trans h), prepareDigest_withPort]; rfl

end

/-! ## Commands -/

/-- A command answers a next state, and the same one whatever waits on the port, with that still waiting. -/
theorem exec_withPort (i : Instr) (s : State) :
    ∃ t, exec i s = .next t ∧ ∀ p, exec i (withPort p s) = .next (withPort p t) := by
  cases i with
  | nop | rdbank | rdks => exact ⟨_, rfl, fun p => rfl⟩
  | rdreg sel => exact ⟨_, rfl, fun p => by cases sel <;> rfl⟩
  | init | ksched => exact ⟨_, rfl, fun p => congrArg Host.Outcome.next (unlessHalted_withPort p s rfl)⟩
  | reset =>
    refine ⟨_, rfl, fun p => congrArg Host.Outcome.next (unlessHalted_withPort p s ?_)⟩
    exact congrArg succeed (unapplySalt_withPort p (clearContext s))
  | update b =>
    refine ⟨_, rfl, fun p => congrArg Host.Outcome.next (unlessHalted_withPort p s ?_)⟩
    rw [appendKeyByte_withPort, apply_ite (withPort p)]
    rfl
  | setsalt n c0 c1 =>
    refine ⟨_, rfl, fun p => congrArg Host.Outcome.next ?_⟩
    rw [apply_ite (withPort p)]
    refine ite_congr rfl (fun _ => rfl) fun _ => unlessHalted_withPort p s ?_
    split_ifs <;> rfl
  | saltperm =>
    refine ⟨_, rfl, fun p => congrArg Host.Outcome.next (unlessHalted_withPort p s ?_)⟩
    rw [applySalt_withPort, apply_ite (withPort p)]
    rfl
  | feistel =>
    refine ⟨_, rfl, fun p => congrArg Host.Outcome.next (unlessHalted_withPort p s ?_)⟩
    rw [runFeistel_withPort]
    cases runFeistel s <;> rfl
  | outenc =>
    refine ⟨_, rfl, fun p => congrArg Host.Outcome.next (unlessHalted_withPort p s ?_)⟩
    rw [apply_ite (withPort p)]
    rfl
  | digest =>
    refine ⟨_, rfl, fun p => congrArg Host.Outcome.next (unlessHalted_withPort p s ?_)⟩
    rw [runDigest_withPort, apply_ite (withPort p), apply_ite (withPort p)]
    rfl

/-- What waits on the port is neither taken nor changed: the command ends as it does with its own port put back. -/
theorem exec_port {i : Instr} {s t : State} (h : exec i s = .next t) : t.port = s.port := by
  obtain ⟨u, hu, hport⟩ := exec_withPort i s
  have hself : exec i s = .next (withPort s.port u) := hport s.port
  rw [h] at hself
  cases hself
  rfl

theorem runWord_withPort (w : Word) (p : List PortEvent) (s : State) :
    runWord w (withPort p s) = .next (withPort p (command s w)) := by
  cases hd : decode w with
  | ok i =>
    obtain ⟨t, ht, hport⟩ := exec_withPort i s
    rw [runWord_of_ok _ hd, hport, command_of_next ((runWord_of_ok s hd).trans ht)]
  | error e =>
    rw [runWord_of_error _ hd, command_of_next (runWord_of_error s hd)]
    rfl

/-! ## Runs -/

theorem run_succ_of_step {M : Host.Core} {k : Nat} {s t : M.State} (h : M.step s = .next t) :
    M.run (k + 1) s = M.run k t := by
  rw [Host.Core.run, h]

/-- A step takes the first loaded word and leaves its command's state with the rest still loaded. -/
theorem step_loadCommands_cons (w : Word) (ws : List Word) (s : State) :
    step (loadCommands s (w :: ws)) = .next (loadCommands (command s w) ws) := by
  have hport : (loadCommands s (w :: ws)).port = .command w :: ws.map .command := rfl
  rw [step_of_command hport]
  exact runWord_withPort w (ws.map .command) s

theorem run_loadCommands (ws : List Word) (s : State) :
    core.run ws.length (loadCommands s ws) = .next (withPort [] (runCommands ws s)) := by
  induction ws generalizing s with
  | nil => rfl
  | cons w ws ih =>
    calc core.run (ws.length + 1) (loadCommands s (w :: ws))
      _ = core.run ws.length (loadCommands (command s w) ws) :=
        run_succ_of_step (M := core) (step_loadCommands_cons w ws s)
      _ = .next (withPort [] (runCommands ws (command s w))) := ih (command s w)

/-- Settles O4, by induction on the words loaded. -/
theorem portOrder : Obligations.PortOrder := ⟨fun _ _ _ => exec_port, run_loadCommands⟩

end Sys2Proof.Machine
end

section
/-!
PROOFS. The canonical cell list (log entry 4; 20_memory.md R70, 10_state.md R37): every step keeps it, and it is fixed
by the bytes it reads as.
-/
namespace Sys2Proof.Machine

/-! ## Kept by every step -/

theorem Violates.cellsCanonical {s u : State} {i : Instr} (hv : Violates s i u) (h : CellsCanonical s) :
    CellsCanonical u := by
  cases hv with
  | feistel => exact h
  | digest => exact memoryWf_prepareDigest h

/-- Settles O54: an error writes no cell, and every completed command and the violation keep the canonical form. -/
theorem canonicalCellsKept : Obligations.CanonicalCellsKept := fun _ _ h hstep =>
  step_keeps (P := CellsCanonical) (fun _ _ h => h) (fun _ _ h => h) (cellsCanonical_of_unlisted rfl)
    (fun _ _ _ h hc => hc.cellsCanonical h) (fun _ _ _ h hv => hv.cellsCanonical h) h hstep

/-! ## Fixed by the bytes read -/

/-- With offsets strictly rising, each listed offset has one cell, and lookup finds it. -/
theorem lookup_eq_some_iff_mem {m : List Host.Cell} (hm : m.Pairwise fun c d => c.1 < d.1) {a : Nat} {v : Byte} :
    m.lookup a = some v ↔ (a, v) ∈ m := by
  induction m with
  | nil => simp
  | cons c m ih =>
    obtain ⟨b, w⟩ := c
    obtain ⟨hlt, hm⟩ := List.pairwise_cons.mp hm
    rw [List.lookup_cons, List.mem_cons]
    by_cases e : a = b
    · subst e
      have hnot : (a, v) ∉ m := fun hmem => lt_irrefl a (hlt _ hmem)
      simp [hnot, eq_comm]
    · simp [beq_eq_false_iff_ne.mpr e, e, ih hm]

theorem readByte_of_listed {mask : Word} {m : List Host.Cell} {a : Nat} {v : Byte} (h : m.lookup a = some v) :
    readByte mask m a = v := by
  rw [readByte, h, Option.getD_some]

theorem readByte_of_not_listed {mask : Word} {m : List Host.Cell} {a : Nat} (h : m.lookup a = none) :
    readByte mask m a = unlistedByte mask a := by
  rw [readByte, h, Option.getD_none]

/-- A canonical list holds a cell exactly where the byte read is not the one of an unlisted offset. -/
theorem mem_iff_readByte {mask : Word} {m : List Host.Cell} (h : memoryWf mask m) (c : Host.Cell) :
    c ∈ m ↔ c.1 < Config.bankSpace ∧ readByte mask m c.1 = c.2 ∧ c.2 ≠ unlistedByte mask c.1 := by
  obtain ⟨hsorted, hcells⟩ := h
  have hlookup : m.lookup c.1 = some c.2 ↔ c ∈ m := lookup_eq_some_iff_mem hsorted
  constructor
  · intro hc
    exact ⟨(hcells c hc).1, readByte_of_listed (hlookup.mpr hc), (hcells c hc).2⟩
  · rintro ⟨-, hread, hne⟩
    rw [← hlookup]
    cases hl : m.lookup c.1 with
    | none => exact absurd (hread.symm.trans (readByte_of_not_listed hl)) hne
    | some v => rw [← hread, readByte_of_listed hl]

/-- Settles O55: both lists hold the cells where the bytes read differ from the unlisted ones, in rising order. -/
theorem equalBanksEqualCells : Obligations.EqualBanksEqualCells := by
  intro mask m n hm hn hread
  have hmem : ∀ c, c ∈ m ↔ c ∈ n := fun c => by
    rw [mem_iff_readByte hm, mem_iff_readByte hn]
    exact and_congr_right fun hc => by rw [hread c.1 hc]
  have hirrefl : Std.Irrefl fun c d : Host.Cell => c.1 < d.1 := ⟨fun c => lt_irrefl c.1⟩
  have hantisymm : Std.Antisymm fun c d : Host.Cell => c.1 < d.1 := ⟨fun c d h h' => absurd h' h.asymm⟩
  exact hm.1.eq_of_mem_iff hn.1 hmem

end Sys2Proof.Machine
end

section
/-!
PROOFS. MemRead's dispatch (20_memory.md R70 to R74).
-/
namespace Sys2Proof.Machine

/-- Entry i of bank b stands at offset 0x8000*b + 8*i. -/
theorem memRead_entry_offset (s : State) {b i : Nat} (hb : b < 4) (hi : i < 4096) :
    memRead s (0x8000 * b + 8 * i) = some (bankEntry s b i) := by
  have hlegal : 0x8000 * b + 8 * i < 0x20000 ∧ (0x8000 * b + 8 * i) % 8 = 0 := by omega
  have hbank : (0x8000 * b + 8 * i) / 0x8000 = b := by omega
  have hentry : (0x8000 * b + 8 * i) % 0x8000 / 8 = i := by omega
  rw [memRead_eq, if_pos hlegal, hbank, hentry]

/-- Settles O37. -/
theorem memReadDispatch : Obligations.MemReadDispatch := by
  refine fun s => ⟨fun _ _ => memRead_entry_offset s, fun off hout => ?_, fun off hmis => ?_⟩
  · rw [memRead_eq, if_neg fun hlegal => absurd hlegal.1 (Nat.not_lt.mpr hout)]
  · rw [memRead_eq, if_neg fun hlegal => hmis hlegal.2]

end Sys2Proof.Machine
end

section
/-!
PROOFS. The command word's round trip (30_encoding.md R101 to R104): the fields of a word, the rows it can match, and
the decoder and the encoder as inverses of each other.
-/
namespace Sys2Proof

/-! ## Fields -/

@[simp] theorem nField_enc (op : BitVec 4) (n : BitVec 2) (a b : Byte) : nField (enc op n a b) = n := by
  refine BitVec.eq_of_getLsbD_eq fun p hp => ?_
  rw [nField, BitVec.getLsbD_extractLsb', Laws.FixedBits.bits _ _ _ _ _ (by omega)]
  simp [hp, show ¬ 16 + p < 8 by omega, show 16 + p < 18 by omega]

@[simp] theorem aField_enc (op : BitVec 4) (n : BitVec 2) (a b : Byte) : aField (enc op n a b) = a := by
  refine BitVec.eq_of_getLsbD_eq fun p hp => ?_
  rw [aField, BitVec.getLsbD_extractLsb', Laws.FixedBits.bits _ _ _ _ _ (by omega)]
  simp [hp, show 8 + p < 16 by omega]

@[simp] theorem bField_enc (op : BitVec 4) (n : BitVec 2) (a b : Byte) : bField (enc op n a b) = b := by
  refine BitVec.eq_of_getLsbD_eq fun p hp => ?_
  rw [bField, BitVec.getLsbD_extractLsb', Laws.FixedBits.bits _ _ _ _ _ (by omega)]
  simp [hp]

/-- RDBANK's index comes back from A and B, where the encoder put it (R103). -/
@[simp] theorem idxField_enc (op : BitVec 4) (n : BitVec 2) (index : BitVec 12) :
    idxField (enc op n ((index >>> 8).setWidth 8) (index.setWidth 8)) = index := by
  refine BitVec.eq_of_getLsbD_eq fun p hp => ?_
  rw [idxField, BitVec.getLsbD_extractLsb', Laws.FixedBits.bits _ _ _ _ _ (by omega)]
  by_cases hlow : p < 8
  · simp [hp, hlow]
  · simp [hp, hlow, show p < 16 by omega, show p - 8 < 8 by omega, show 8 + (p - 8) = p by omega]

@[simp] theorem ksField_enc (op : BitVec 4) (n : BitVec 2) (a b : Byte) : ksField (enc op n a b) = b.setWidth 4 := by
  refine BitVec.eq_of_getLsbD_eq fun p hp => ?_
  rw [ksField, BitVec.getLsbD_extractLsb', Laws.FixedBits.bits _ _ _ _ _ (by omega)]
  simp [hp, show p < 8 by omega]

@[simp] theorem selField_enc (op : BitVec 4) (n : BitVec 2) (a b : Byte) : selField (enc op n a b) = b.setWidth 3 := by
  refine BitVec.eq_of_getLsbD_eq fun p hp => ?_
  rw [selField, BitVec.getLsbD_extractLsb', Laws.FixedBits.bits _ _ _ _ _ (by omega)]
  simp [hp, show p < 8 by omega]

@[simp] theorem RegSel.ofCode_code (sel : RegSel) : RegSel.ofCode sel.code = sel := by cases sel <;> rfl

theorem RegSel.ofCode_injective {c d : BitVec 3} (h : RegSel.ofCode c = RegSel.ofCode d) : c = d := by
  revert c d; decide

/-! ## Rows of the opcode table (R102, R103) -/

theorem Opcode.ofCode_eq_some_iff {c : BitVec 4} {op : Opcode} : Opcode.ofCode c = some op ↔ c = op.code := by
  revert c
  cases op <;> decide

theorem Opcode.code_injective {op op' : Opcode} (h : op.code = op'.code) : op = op' :=
  Option.some.inj ((ofCode_eq_some_iff.mpr rfl).symm.trans (ofCode_eq_some_iff.mpr h))

theorem Opcode.ofCode_eq_none_iff {c : BitVec 4} : Opcode.ofCode c = none ↔ c = 0xD ∨ c = 0xE ∨ c = 0xF := by
  revert c
  decide

theorem opField_and (v w : Word) : opField (v &&& w) = opField v &&& opField w := BitVec.extractLsb'_and

theorem opField_maskBits (op : Opcode) : opField op.maskBits = BitVec.allOnes 4 := by cases op <;> rfl

theorem opField_matchBits (op : Opcode) : opField op.matchBits = op.code := by cases op <;> rfl

theorem opField_of_row {w : Word} {op : Opcode} (h : w &&& op.maskBits = op.matchBits) : opField w = op.code := by
  rw [← opField_matchBits, ← h, opField_and, opField_maskBits, BitVec.and_allOnes]

theorem row_unique {w : Word} {op op' : Opcode} (h : w &&& op.maskBits = op.matchBits)
    (h' : w &&& op'.maskBits = op'.matchBits) : op = op' :=
  Opcode.code_injective ((opField_of_row h).symm.trans (opField_of_row h'))

theorem decode_of_row {w : Word} {op : Opcode} (h : w &&& op.maskBits = op.matchBits) : decode w = operands op w := by
  rw [decode, Opcode.ofCode_eq_some_iff.mpr (opField_of_row h)]
  exact if_pos h

theorem row_encode (i : Instr) : encode i &&& i.opcode.maskBits = i.opcode.matchBits := by
  have h : Laws.FixedBits.Statement i := by
    cases i with
    | nop => exact Laws.FixedBits.nop
    | init => exact Laws.FixedBits.init
    | reset => exact Laws.FixedBits.reset
    | update byte => exact Laws.FixedBits.update byte
    | setsalt n c0 c1 => exact Laws.FixedBits.setsalt n c0 c1
    | ksched => exact Laws.FixedBits.ksched
    | saltperm => exact Laws.FixedBits.saltperm
    | feistel => exact Laws.FixedBits.feistel
    | outenc => exact Laws.FixedBits.outenc
    | digest => exact Laws.FixedBits.digest
    | rdbank bank index => exact Laws.FixedBits.rdbank bank index
    | rdks index => exact Laws.FixedBits.rdks index
    | rdreg sel => exact Laws.FixedBits.rdreg sel
  exact h.2

theorem operands_setsalt_of_legal {w : Word} (h : nField w ≠ 3) :
    operands .setsalt w = .ok (.setsalt (nField w) (aField w) (bField w)) := if_neg h

theorem operands_setsalt_of_reserved {w : Word} (h : nField w = 3) :
    operands .setsalt w = .error .reservedCount := if_pos h

theorem setsalt_of_operands {w : Word} {i : Instr} (h : operands .setsalt w = .ok i) :
    nField w ≠ 3 ∧ i = .setsalt (nField w) (aField w) (bField w) := by
  by_cases hn : nField w = 3
  · rw [operands_setsalt_of_reserved hn] at h
    cases h
  · rw [operands_setsalt_of_legal hn] at h
    exact ⟨hn, (Except.ok.inj h).symm⟩

theorem operands_encode {i : Instr} (h : i.wellFormed = true) : operands i.opcode (encode i) = .ok i := by
  cases i with
  | nop | init | reset | ksched | saltperm | feistel | outenc | digest => rfl
  | update byte => simp [operands, Instr.opcode, encode]
  | setsalt n c0 c1 =>
    have hn : nField (encode (.setsalt n c0 c1)) ≠ 3 := by
      rw [encode, nField_enc]
      simpa [Instr.wellFormed] using h
    rw [Instr.opcode, operands_setsalt_of_legal hn]
    simp [encode]
  | rdbank bank index => simp [operands, Instr.opcode, encode]
  | rdks index => simp [operands, Instr.opcode, encode]
  | rdreg sel => simp [operands, Instr.opcode, encode]

/-- What a row's operands give is a well-formed instruction of that row. -/
theorem operands_sound {op : Opcode} {w : Word} {i : Instr} (h : operands op w = .ok i) :
    i.opcode = op ∧ i.wellFormed = true := by
  cases op with
  | setsalt =>
    obtain ⟨hn, rfl⟩ := setsalt_of_operands h
    exact ⟨rfl, by simpa [Instr.wellFormed] using hn⟩
  | _ => cases h; exact ⟨rfl, rfl⟩

theorem operands_eq_error_iff {op : Opcode} {w : Word} :
    (∃ e, operands op w = .error e) ↔ op = .setsalt ∧ nField w = 3 := by
  cases op with
  | setsalt =>
    by_cases hn : nField w = 3
    · simp [operands_setsalt_of_reserved hn, hn]
    · simpa [operands_setsalt_of_legal hn] using hn
  | _ => simp [operands]

/-- A word decodes to `i` exactly when it matches the row of `i`'s opcode and holds `i`'s operands. -/
theorem decode_eq_ok_iff {w : Word} {i : Instr} : decode w = .ok i ↔
    w &&& i.opcode.maskBits = i.opcode.matchBits ∧ operands i.opcode w = .ok i := by
  constructor
  · intro h
    cases hop : Opcode.ofCode (opField w) with
    | none => simp [decode, hop] at h
    | some op =>
      by_cases hrow : w &&& op.maskBits = op.matchBits
      · rw [decode_of_row hrow] at h
        obtain ⟨rfl, -⟩ := operands_sound h
        exact ⟨hrow, h⟩
      · simp [decode, hop, hrow] at h
  · rintro ⟨hrow, h⟩
    rw [decode_of_row hrow, h]

/-- Settles O6: the word matches the row of its opcode, and each operand is read from the bits it was put into. -/
theorem decodeEncode : Obligations.DecodeEncode := fun i h =>
  decode_eq_ok_iff.mpr ⟨row_encode i, operands_encode h⟩

/-! ## One word for each instruction -/

theorem getLsbD_eq_of_row {v w mask fixed : Word} (hv : v &&& mask = fixed) (hw : w &&& mask = fixed) {p : Nat}
    (hp : mask.getLsbD p = true) : v.getLsbD p = w.getLsbD p := by
  have h := congrArg (·.getLsbD p) (hv.trans hw.symm)
  simpa [BitVec.getLsbD_and, hp] using h

theorem getLsbD_eq_of_extractLsb'_eq {v w : Word} {start len p : Nat}
    (h : v.extractLsb' start len = w.extractLsb' start len) (hlo : start ≤ p) (hhi : p < start + len) :
    v.getLsbD p = w.getLsbD p := by
  have hbit := congrArg (·.getLsbD (p - start)) h
  simpa [show p - start < len by omega, Nat.add_sub_cancel' hlo] using hbit

/-- The bits that an opcode's row leaves free are bits of the operands that R104 reads. -/
theorem getLsbD_eq_of_operands {op : Opcode} {v w : Word} {i : Instr} (hv : operands op v = .ok i)
    (hw : operands op w = .ok i) {p : Nat} (hp : p < 32) (hopen : op.maskBits.getLsbD p = false) :
    v.getLsbD p = w.getLsbD p := by
  have heq : operands op v = operands op w := hv.trans hw.symm
  cases op with
  | nop | init | reset | ksched | saltperm | feistel | outenc | digest =>
    have hfixed : ∀ p < 32, (0xFFFFFFFF : Word).getLsbD p = true := by decide
    exact absurd (hfixed p hp) (ne_true_of_eq_false hopen)
  | update =>
    have hrange : ∀ p < 32, Opcode.update.maskBits.getLsbD p = false → p < 8 := by decide
    have hb : bField v = bField w := by simpa [operands] using heq
    exact getLsbD_eq_of_extractLsb'_eq hb (Nat.zero_le p) (hrange p hp hopen)
  | setsalt =>
    have hrange : ∀ p < 32, Opcode.setsalt.maskBits.getLsbD p = false → p < 18 := by decide
    obtain ⟨hn, ha, hb⟩ : nField v = nField w ∧ aField v = aField w ∧ bField v = bField w := by
      simpa using (setsalt_of_operands hv).2.symm.trans (setsalt_of_operands hw).2
    rcases lt_or_ge p 8 with h8 | h8
    · exact getLsbD_eq_of_extractLsb'_eq hb (Nat.zero_le p) h8
    rcases lt_or_ge p 16 with h16 | h16
    · exact getLsbD_eq_of_extractLsb'_eq ha h8 h16
    · exact getLsbD_eq_of_extractLsb'_eq hn h16 (hrange p hp hopen)
  | rdbank =>
    have hrange : ∀ p < 32, Opcode.rdbank.maskBits.getLsbD p = false → p < 12 ∨ 16 ≤ p ∧ p < 18 := by decide
    obtain ⟨hn, hidx⟩ : nField v = nField w ∧ idxField v = idxField w := by simpa [operands] using heq
    rcases hrange p hp hopen with h12 | ⟨h16, h18⟩
    · exact getLsbD_eq_of_extractLsb'_eq hidx (Nat.zero_le p) h12
    · exact getLsbD_eq_of_extractLsb'_eq hn h16 h18
  | rdks =>
    have hrange : ∀ p < 32, Opcode.rdks.maskBits.getLsbD p = false → p < 4 := by decide
    have hks : ksField v = ksField w := by simpa [operands] using heq
    exact getLsbD_eq_of_extractLsb'_eq hks (Nat.zero_le p) (hrange p hp hopen)
  | rdreg =>
    have hrange : ∀ p < 32, Opcode.rdreg.maskBits.getLsbD p = false → p < 3 := by decide
    have hsel : selField v = selField w := RegSel.ofCode_injective (by simpa [operands] using heq)
    exact getLsbD_eq_of_extractLsb'_eq hsel (Nat.zero_le p) (hrange p hp hopen)

/-- No instruction has two words: they agree on the fixed bits of its row and on its operands. -/
theorem decode_injective {v w : Word} {i : Instr} (hv : decode v = .ok i) (hw : decode w = .ok i) : v = w := by
  obtain ⟨hrow, hops⟩ := decode_eq_ok_iff.mp hv
  obtain ⟨hrow', hops'⟩ := decode_eq_ok_iff.mp hw
  refine BitVec.eq_of_getLsbD_eq fun p hp => ?_
  cases hmask : i.opcode.maskBits.getLsbD p with
  | true => exact getLsbD_eq_of_row hrow hrow' hmask
  | false => exact getLsbD_eq_of_operands hops hops' hp hmask

theorem wellFormed_of_decode {w : Word} {i : Instr} (h : decode w = .ok i) : i.wellFormed = true :=
  (operands_sound (decode_eq_ok_iff.mp h).2).2

/-- Settles O7: the word and its instruction's own word decode to the same, so they are one. -/
theorem encodeDecode : Obligations.EncodeDecode := fun _ i h =>
  ⟨wellFormed_of_decode h, decode_injective (decodeEncode i (wellFormed_of_decode h)) h⟩

/-- Settles O8, by evaluation of the thirteen words. -/
theorem sampleWordsDecode : Obligations.SampleWordsDecode := by
  unfold Obligations.SampleWordsDecode
  decide

end Sys2Proof
end

section
/-!
PROOFS. The illegal words (30_encoding.md R105), and what a step does with a word (R100, R107).
-/
namespace Sys2Proof.Machine

/-- A word that matches no row: its opcode is reserved, or a bit that its opcode's row fixes is wrong. -/
theorem decode_of_no_row {w : Word} (h : ∀ op : Opcode, w &&& op.maskBits ≠ op.matchBits) :
    (∃ e, decode w = .error e) ∧ illegalWord w := by
  cases hop : Opcode.ofCode (opField w) with
  | none =>
    have hreserved := Opcode.ofCode_eq_none_iff.mp hop
    exact ⟨⟨.reservedOpcode, by rw [decode, hop]⟩, by unfold illegalWord; tauto⟩
  | some op =>
    have hcode := Opcode.ofCode_eq_some_iff.mp hop
    refine ⟨⟨.reservedBits, ?_⟩, .inr (.inr (.inr (.inl ⟨op, hcode, h op⟩)))⟩
    rw [decode, hop]
    exact if_neg (h op)

theorem illegalWord_of_row {w : Word} {op : Opcode} (h : w &&& op.maskBits = op.matchBits) :
    illegalWord w ↔ op = .setsalt ∧ nField w = 3 := by
  have hcode : opField w = op.code := opField_of_row h
  have hassigned : ¬ (opField w = 0xD ∨ opField w = 0xE ∨ opField w = 0xF) := by
    rw [← Opcode.ofCode_eq_none_iff, Opcode.ofCode_eq_some_iff.mpr hcode]
    exact Option.some_ne_none op
  constructor
  · rintro (hd | he | hf | ⟨op', hcode', hne⟩ | ⟨hcode', hn⟩)
    · exact absurd (.inl hd) hassigned
    · exact absurd (.inr (.inl he)) hassigned
    · exact absurd (.inr (.inr hf)) hassigned
    · obtain rfl : op = op' := Opcode.code_injective (hcode.symm.trans hcode')
      exact absurd h hne
    · exact ⟨Opcode.code_injective (op' := .setsalt) (hcode.symm.trans hcode'), hn⟩
  · rintro ⟨rfl, hn⟩
    exact .inr (.inr (.inr (.inr ⟨hcode, hn⟩)))

/-- R105's three cases are the words that do not decode. -/
theorem illegalWord_iff_decode_error {w : Word} : illegalWord w ↔ ∃ e, decode w = .error e := by
  by_cases hrow : ∃ op : Opcode, w &&& op.maskBits = op.matchBits
  · obtain ⟨op, h⟩ := hrow
    rw [illegalWord_of_row h, decode_of_row h, operands_eq_error_iff]
  · obtain ⟨herr, hill⟩ := decode_of_no_row (not_exists.mp hrow)
    exact iff_of_true hill herr

theorem not_illegalWord_iff {w : Word} : ¬ illegalWord w ↔ ∃ i, decode w = .ok i := by
  rw [illegalWord_iff_decode_error]
  cases decode w <;> simp

/-- Settles O5: the illegal words are those that do not decode, and a word that decodes matches one row. -/
theorem illegalWordsExactly : Obligations.IllegalWordsExactly := by
  refine fun w => ⟨fun h s => ?_, fun h => ?_⟩
  · obtain ⟨e, he⟩ := illegalWord_iff_decode_error.mp h
    exact runWord_of_error s he
  · obtain ⟨i, hi⟩ := not_illegalWord_iff.mp h
    obtain ⟨hrow, -⟩ := decode_eq_ok_iff.mp hi
    exact ⟨⟨i.opcode, hrow, fun _ hrow' => row_unique hrow' hrow⟩,
      i, hi, wellFormed_of_decode hi, hrow, fun s => runWord_of_ok s hi⟩

/-- Settles O3: the two kinds of word, the empty port, and a word put ahead of the port's events. -/
theorem stepRunsDecodedCommand : Obligations.StepRunsDecodedCommand := by
  refine ⟨fun s w rest i hport hdecode => ?_, fun s w rest e hport hdecode => ?_, fun s => step_of_empty,
    fun s nbits w i hdecode => ?_⟩
  · rw [step_of_command hport, runWord_of_ok _ hdecode]
  · rw [step_of_command hport, runWord_of_error _ hdecode]
    rfl
  · have hport : (s.withFetchWord nbits w).port = .command (BitVec.ofNat 32 (w % 2 ^ nbits)) :: s.port := rfl
    rw [step_of_command hport, runWord_of_ok _ hdecode]
    rfl

end Sys2Proof.Machine
end

section
/-!
PROOFS. The assembler (30_encoding.md R108, R109) gives only words of well-formed instructions.
-/
namespace Sys2Proof.Machine

theorem saltCommand_wellFormed (salt : List Byte) : (saltCommand salt).wellFormed = true := by
  have hcount : min salt.length 2 ≤ 2 := Nat.min_le_right _ _
  simp only [saltCommand, Instr.wellFormed]
  interval_cases min salt.length 2 <;> rfl

theorem keyCommands_wellFormed (password : List Byte) : (keyCommands password).all Instr.wellFormed = true := by
  simp [keyCommands, Instr.wellFormed]

theorem hashCommands_wellFormed (password salt : List Byte) :
    (hashCommands password salt).all Instr.wellFormed = true := by
  simp only [hashCommands, List.all_append, keyCommands_wellFormed, List.all_cons, saltCommand_wellFormed]
  rfl

/-- An assembly error, or well-formed instructions only. -/
def WellFormedLine (r : Option (List Instr)) : Prop := r.all (·.all Instr.wellFormed) = true

theorem WellFormedLine.ite {c : Prop} [Decidable c] {r r' : Option (List Instr)} (h : WellFormedLine r)
    (h' : WellFormedLine r') : WellFormedLine (if c then r else r') :=
  iteInduction (fun _ => h) (fun _ => h')

theorem WellFormedLine.map {α : Type} {f : α → Instr} (hf : ∀ a, (f a).wellFormed = true) (operand : Option α) :
    WellFormedLine (operand.map fun a => [f a]) := by
  cases operand with
  | none => rfl
  | some a => simp [WellFormedLine, hf]

theorem wellFormedLine_asmSetsalt (n : Nat) (a b : AsmToken) : WellFormedLine (asmSetsalt n a b) := by
  unfold asmSetsalt
  split
  · split
    · interval_cases n <;> rfl
    · rfl
  · rfl

theorem wellFormedLine_asmRdbank (bank index : Nat) : WellFormedLine (asmRdbank bank index) := by
  unfold asmRdbank
  split <;> rfl

/-- Mnemonic by mnemonic (R108, R109): only a SETSALT can be ill-formed, and its count is at most 2. -/
theorem wellFormedLine_asmLine (tokens : List AsmToken) : WellFormedLine (asmLine tokens) := by
  unfold asmLine
  split
  · rfl
  · refine .ite ?nop <| .ite ?init <| .ite ?reset <| .ite ?update <| .ite ?setsalt <| .ite ?ksched <|
      .ite ?saltperm <| .ite ?feistel <| .ite ?outenc <| .ite ?digest <| .ite ?rdbank <| .ite ?rdks <|
      .ite ?rdreg <| .ite ?key <| .ite ?hash <| .ite ?rdout <| .ite ?stephash rfl
    case nop | init | reset | ksched | saltperm | feistel | outenc | digest | rdout | stephash => split <;> rfl
    case update =>
      split
      · exact .map (fun _ => rfl) _
      · rfl
    case setsalt =>
      split
      · exact wellFormedLine_asmSetsalt _ _ _
      · rfl
      · rfl
    case rdbank =>
      split
      · exact wellFormedLine_asmRdbank _ _
      · rfl
    case rdks =>
      split
      · exact .map (fun _ => rfl) _
      · rfl
    case rdreg =>
      split
      · exact .map (fun _ => rfl) _
      · exact .map (fun _ => rfl) _
      · rfl
    case key =>
      split
      · exact keyCommands_wellFormed _
      · rfl
    case hash =>
      split
      · exact hashCommands_wellFormed _ _
      · rfl
  · rfl

theorem assembleLine_wellFormed {line : List Char} {is : List Instr} (h : assembleLine line = some is) :
    ∀ i ∈ is, i.wellFormed = true := by
  unfold assembleLine at h
  split at h
  · cases h
  · next ts _ =>
    have hall := wellFormedLine_asmLine ts
    rw [h] at hall
    simpa [WellFormedLine] using hall

/-- Every word of an assembled program is the word of a well-formed instruction. -/
theorem assemble_sound {lines : List (List Char)} {ws : List Word} (h : assemble lines = some ws) :
    ∀ w ∈ ws, ∃ i : Instr, i.wellFormed = true ∧ w = encode i := by
  induction lines generalizing ws with
  | nil => cases h; simp
  | cons line rest ih =>
    unfold assemble at h
    split at h
    · next is ws' hline hrest =>
      cases h
      intro w hw
      rcases List.mem_append.mp hw with hfirst | hlater
      · obtain ⟨i, hi, rfl⟩ := List.mem_map.mp hfirst
        exact ⟨i, assembleLine_wellFormed hline i hi, rfl⟩
      · exact ih hrest w hlater
    · cases h

/-- Settles O9: every word is the encoding of a well-formed instruction, which decodes. -/
theorem assemblerEmitsLegalWords : Obligations.AssemblerEmitsLegalWords := by
  intro lines ws h w hw
  obtain ⟨i, hi, rfl⟩ := assemble_sound h w hw
  exact not_illegalWord_iff.mpr ⟨i, decodeEncode i hi⟩

end Sys2Proof.Machine
end

section
/-!
PROOFS. INIT (40_tables.md R158): with nothing listed every entry reads as BASE's, and a canonical list of banks that
match the mask is that empty list already.
-/
namespace Sys2Proof.Machine

/-- Under INV-BANK no byte differs from what its offset reads as unlisted, so the canonical list is empty. -/
theorem bank_eq_nil_of_banksMatchMask {s : State} (hbanks : BanksMatchMask s) (hcells : CellsCanonical s) :
    s.bank = [] := by
  refine equalBanksEqualCells s.mask s.bank [] hcells (memoryWf_nil s.mask) fun a ha => ?_
  have hentry : readEntry s.mask s.bank (a / 8) = unlistedEntry s.mask (a / 8) := by
    have hspace : a < 0x20000 := ha
    have h := hbanks (a / 8 / 4096) (a / 8 % 4096) (by omega) (Nat.mod_lt _ (by decide))
    rwa [bankEntry, Nat.div_add_mod] at h
  have hbyte := byteOf_readEntry s.mask s.bank (a / 8) (Nat.mod_lt a (by decide : 0 < 8))
  rw [hentry, Nat.div_add_mod] at hbyte
  exact hbyte.symm

theorem exec_init_of_safe {s : State} (hsafe : s.fatal = false) : exec .init s = .next (succeed (initBanks s)) :=
  congrArg Host.Outcome.next (unlessHalted_of_safe _ hsafe)

/-- Settles O20: INIT leaves no cell listed and MASK = 0, which canonical banks at MASK = 0 are already. -/
theorem initEffect : Obligations.InitEffect := fun s hsafe => by
  refine ⟨_, exec_init_of_safe hsafe, rfl, fun b i _ hi => bankEntry_initBanks s hi, fun hmask hbanks hcells => ?_⟩
  have hnil : s.bank = [] := bank_eq_nil_of_banksMatchMask hbanks hcells
  apply state_ext <;> simp [hmask, hnil]

end Sys2Proof.Machine
end

section
/-!
PROOFS. The base banks in closed form (40_tables.md R152, R155, R156), bit by bit: DES bit i+1 of E(P(w)) and R152's
EPT bit i both carry DES bit `eptSource i + 1` of w to E bit i+1's place in the layout.
-/
namespace Sys2Proof.Machine

/-! ## DES bits (R9) -/

theorem getLsbD_one_shiftLeft {w k p : Nat} (hp : p < w) : (1#w <<< k).getLsbD p = decide (k = p) := by
  refine (BitVec.getLsbD_twoPow k p).trans ?_
  rw [← Bool.decide_and, decide_eq_decide]
  omega

theorem getLsbD_ofDesBits {m : Nat} (bit : Nat → Bool) {p : Nat} (hp : p < m) :
    (ofDesBits m bit).getLsbD p = bit (m - 1 - p) := by
  rw [Bool.eq_iff_iff, ofDesBits, getLsbD_scatter, List.any_eq_true]
  simp only [getLsbD_one_shiftLeft hp, List.mem_range, Bool.and_eq_true, decide_eq_true_eq]
  constructor
  · rintro ⟨i, hi, hbit, hposition⟩
    rwa [show m - 1 - p = i by omega]
  · intro hbit
    exact ⟨m - 1 - p, by omega, hbit, by omega⟩

theorem desBit_ofDesBits {m : Nat} (bit : Nat → Bool) {i : Nat} (hi : i < m) :
    desBit (ofDesBits m bit) (i + 1) = bit i := by
  rw [desBit, getLsbD_ofDesBits bit (by omega), show m - 1 - (m - (i + 1)) = i by omega]

theorem desBit_permute {n m : Nat} (t : List Nat) (v : BitVec n) {i : Nat} (hi : i < m) :
    desBit (permute m t v) (i + 1) = desBit v (entry t i) :=
  desBit_ofDesBits _ hi

/-- E(P(w)) takes DES bit i+1 from the bit R152 calls cf. -/
theorem desBit_expandedPermutation (w : BitVec 32) {i : Nat} (hi : i < 48) :
    desBit (permute 48 esel (permute 32 perm32 w)) (i + 1) = desBit w (eptSource i + 1) := by
  have hsource : ∀ i < 48, entry esel i = (entry esel i - 1) + 1 ∧ entry esel i - 1 < 32 ∧
      entry perm32 (entry esel i - 1) = eptSource i + 1 := by decide
  obtain ⟨hesel, hlt, hperm⟩ := hsource i hi
  rw [desBit_permute _ _ hi, hesel, desBit_permute _ _ hlt, hperm]

/-- `j & BYTEMASK[k]` (R148) is DES bit k+1 of the byte. -/
theorem and_byteMask_ne_zero (j : Byte) {k : Nat} (hk : k < 8) :
    (j &&& byteMask k != 0) = desBit j (k + 1) := by
  revert j
  interval_cases k <;> decide

/-- Byte y of a word, from the most significant, holds the word's DES bits 8y+1 to 8y+8. -/
theorem desBit_byte (w : Word) {y k : Nat} (hy : y < 4) (hk : k < 8) :
    desBit (w.extractLsb' (24 - 8 * y) 8) (k + 1) = desBit w (8 * y + k + 1) := by
  simp only [desBit, BitVec.getLsbD_extractLsb', show 8 - (k + 1) < 8 by omega, decide_true, Bool.true_and]
  congr 1
  omega

/-! ## E-layout words (R12) -/

theorem getLsbD_eWord (e : BitVec 48) {p : Nat} (hp : p < 64) :
    (eWord e).getLsbD p = true ↔ ∃ i < 48, desBit e (i + 1) = true ∧ ePosition (i + 1) = p := by
  simp only [eWord, getLsbD_scatter, getLsbD_one_shiftLeft hp, List.any_eq_true, List.mem_range, Bool.and_eq_true,
    decide_eq_true_eq]

/-- BITMASK (R148) puts E bit i+1 at its place in quarter-word i / 24 of the layout, quarter-word 0 the upper one. -/
theorem bitMask_position : ∀ i < 48, ∀ p < 64,
    (i / 24 = 1 - p / 32 ∧ (bitMask (i % 24)).getLsbD (p % 32) = true ↔ ePosition (i + 1) = p) := by decide

/-! ## EPT (R152) and BASE (R155) -/

theorem getLsbD_ept {y w : Nat} (j : Byte) (hy : y < 4) (hw : w < 2) (p : Nat) :
    (ept y j w).getLsbD p = true ↔ ∃ i < 48, (eptSource i / 8 = y ∧ desBit j (eptSource i % 8 + 1) = true) ∧
      i / 24 = w ∧ (bitMask (i % 24)).getLsbD p = true := by
  simp only [ept_eq j hy hw, eptEntry, eptBits, getLsbD_scatter, List.any_eq_true, List.mem_filter, List.mem_range,
    Bool.and_eq_true, decide_eq_true_eq, BitVec.ofNat_toNat, BitVec.setWidth_eq,
    and_byteMask_ne_zero j (Nat.mod_lt _ (by decide : 0 < 8))]
  exact exists_congr fun i => by tauto

/-- The two quarter-words of an EPT row, as R155 joins them, hold each E bit at its place in the layout. -/
theorem getLsbD_eptPair {y : Nat} (j : Byte) (hy : y < 4) {p : Nat} (hp : p < 64) :
    (ept y j 0 ++ ept y j 1 : DWord).getLsbD p = true ↔
      ∃ i < 48, (eptSource i / 8 = y ∧ desBit j (eptSource i % 8 + 1) = true) ∧ ePosition (i + 1) = p := by
  have hquarter : (ept y j 0 ++ ept y j 1 : DWord).getLsbD p = (ept y j (1 - p / 32)).getLsbD (p % 32) := by
    rw [getLsbD_append32]
    split_ifs with hlow
    · rw [Nat.mod_eq_of_lt hlow, Nat.div_eq_of_lt hlow]
    · rw [show p / 32 = 1 by omega, show p % 32 = p - 32 by omega]
  rw [hquarter, getLsbD_ept j hy (by omega)]
  exact exists_congr fun i => and_congr_right fun hi => and_congr_right fun _ => bitMask_position i hi p hp

theorem getLsbD_foldl_or {n : Nat} (xs : List Nat) (f : Nat → BitVec n) (p : Nat) :
    (xs.foldl (fun v x => v ||| f x) 0).getLsbD p = xs.any fun x => (f x).getLsbD p := by
  simpa [scatter] using getLsbD_scatter xs (fun _ => true) f p

theorem getLsbD_expandPermute (w : Word) {p : Nat} (hp : p < 64) :
    (expandPermute w).getLsbD p = true ↔
      ∃ i < 48, desBit w (eptSource i + 1) = true ∧ ePosition (i + 1) = p := by
  have hsource : ∀ i < 48, eptSource i / 8 < 4 := by decide
  have hbyte : ∀ i < 48, desBit (w.extractLsb' (24 - 8 * (eptSource i / 8)) 8) (eptSource i % 8 + 1) =
      desBit w (eptSource i + 1) := fun i hi => by
    rw [desBit_byte w (hsource i hi) (Nat.mod_lt _ (by decide)), Nat.div_add_mod]
  rw [expandPermute, getLsbD_foldl_or, List.any_eq_true]
  constructor
  · rintro ⟨y, hy, h⟩
    obtain ⟨i, hi, ⟨rfl, hbit⟩, hpos⟩ := (getLsbD_eptPair _ (List.mem_range.mp hy) hp).mp h
    exact ⟨i, hi, hbyte i hi ▸ hbit, hpos⟩
  · rintro ⟨i, hi, hbit, hpos⟩
    exact ⟨eptSource i / 8, List.mem_range.mpr (hsource i hi),
      (getLsbD_eptPair _ (hsource i hi) hp).mpr ⟨i, hi, ⟨rfl, (hbyte i hi).trans hbit⟩, hpos⟩⟩

/-- R155's four lookups lay out E(P(w)), for every word w. -/
theorem expandPermute_eq_eWord (w : Word) :
    expandPermute w = eWord (permute 48 esel (permute 32 perm32 w)) := by
  refine BitVec.eq_of_getLsbD_eq fun p hp => ?_
  rw [Bool.eq_iff_iff, getLsbD_expandPermute w hp, getLsbD_eWord _ hp]
  exact exists_congr fun i => and_congr_right fun hi => by rw [desBit_expandedPermutation w hi]

/-- R155's to-permute word is R156's w: the first output above the second in byte sg, and zero elsewhere. -/
theorem toPermute_eq_pairOutput {sg : Nat} (j1 j2 : Nat) (hsg : sg < 4) :
    toPermute sg (sLookup (2 * sg) (BitVec.ofNat 6 j1)) (sLookup (2 * sg + 1) (BitVec.ofNat 6 j2)) =
      pairOutput sg j1 j2 := by
  refine BitVec.eq_of_getLsbD_eq fun p hp => ?_
  rw [pairOutput, getLsbD_ofDesBits _ hp, toPermute, BitVec.getLsbD_shiftLeft, BitVec.getLsbD_setWidth,
    BitVec.getLsbD_append]
  have hwidth : p - (24 - 8 * sg) < 32 := by omega
  simp only [desBit, hp, hwidth, decide_true, Bool.true_and]
  by_cases hfirst : 8 * sg ≤ 32 - 1 - p ∧ 32 - 1 - p < 8 * sg + 4
  · rw [if_pos hfirst, if_neg (by omega), show p - (24 - 8 * sg) - 4 = 4 - (32 - 1 - p - 8 * sg + 1) by omega,
      decide_eq_false (by omega), Bool.not_false, Bool.true_and]
  rw [if_neg hfirst]
  by_cases hsecond : 8 * sg + 4 ≤ 32 - 1 - p ∧ 32 - 1 - p < 8 * sg + 8
  · rw [if_pos hsecond, if_pos (by omega), show p - (24 - 8 * sg) = 4 - (32 - 1 - p - 8 * sg - 3) by omega,
      decide_eq_false (by omega), Bool.not_false, Bool.true_and]
  rw [if_neg hsecond]
  by_cases hbelow : p < 24 - 8 * sg
  · simp [hbelow]
  · rw [if_neg (by omega), BitVec.getLsbD_of_ge _ _ (by omega), Bool.and_false]

/-- Settles O35: the entry's four EPT lookups run on R156's w. -/
theorem baseBankClosedForm : Obligations.BaseBankClosedForm := fun sg j1 j2 hsg hj1 hj2 => by
  have hentry : 64 * j1 + j2 < 4096 := by omega
  have hrow : (64 * j1 + j2) / 64 = j1 := by omega
  have hcolumn : (64 * j1 + j2) % 64 = j2 := by omega
  refine ⟨?_, isELayout_base hsg hentry⟩
  rw [base_eq hsg hentry, hrow, hcolumn, baseEntry, toPermute_eq_pairOutput j1 j2 hsg, expandPermute_eq_eWord]

end Sys2Proof.Machine
end

section
/-!
PROOFS. The key schedule (41_key_schedule.md R180 to R183) against textbook DES. KBUF enters both only through the
septets of the DES key; PC1T's and PC2T's lookups place one bit per table position, and the rotations add up.
-/
namespace Sys2Proof.Machine

/-! ## Septets of a DES vector (R180, R181) -/

/-- `KBUF[k] & 0x7F` is DES bits 8k+1 to 8k+7 of the key; its parity bit 8k+8 is in no septet. -/
theorem septetOf_eq_desKey (kbuf : Vector Byte 8) {k : Nat} (hk : k < 8) :
    septetOf kbuf[k] = (desKey kbuf).extractLsb' (57 - 8 * k) 7 := by
  have hbyte : ∀ b : Byte, (b <<< 1).extractLsb' 1 7 = septetOf b := by decide
  interval_cases k <;>
    simp (disch := omega) only [desKey, BitVec.extractLsb'_append_eq_of_le, BitVec.extractLsb'_append_eq_of_add_le] <;>
    exact (hbyte _).symm

/-- The septet that starts at DES bit `k + 1` holds DES bits `k + 1` to `k + 7`. -/
theorem desBit_septet {n : Nat} (v : BitVec n) {k c : Nat} (hk : k + 7 ≤ n) (hc : c < 7) :
    desBit (v.extractLsb' (n - 7 - k) 7) (c + 1) = desBit v (k + c + 1) := by
  simp only [desBit, BitVec.getLsbD_extractLsb', show 7 - (c + 1) < 7 by omega, decide_true, Bool.true_and]
  congr 1
  omega

/-- `j & BYTEMASK[c+1]`, on a septet widened to a byte, is DES bit c+1 of the septet (R150, R151). -/
theorem septet_and_byteMask_ne_zero (j : BitVec 7) {c : Nat} (hc : c < 7) :
    (BitVec.ofNat 8 j.toNat &&& byteMask (c + 1) != 0) = desBit j (c + 1) := by
  rw [and_byteMask_ne_zero _ (by omega), desBit, desBit, BitVec.getLsbD_ofNat, BitVec.testBit_toNat,
    decide_eq_true (by omega), Bool.true_and]
  congr 1
  omega

/-! ## The PC1 step (R150, R180) -/

/-- PC1 reads key bytes 0 to 7 and none of their parity bits. -/
theorem pc1_position : ∀ i < 56, (entry pc1 i - 1) / 8 < 8 ∧ (entry pc1 i - 1) % 8 < 7 ∧ 0 < entry pc1 i := by decide

/-- LONGMASK (R148) puts CD bit i+1 at its place in its half. -/
theorem longMask_position : ∀ i < 56, ∀ p < 28,
    ((longMask (i % 28 + 4)).getLsbD p = true ↔ i % 28 = 27 - p) := by decide

theorem getLsbD_pc1t {k h : Nat} (j : BitVec 7) (hk : k < 8) (hh : h < 2) {p : Nat} (hp : p < 28) :
    (pc1t k h j).getLsbD p = true ↔ ∃ i < 56, ((entry pc1 i - 1) / 8 = k ∧ i / 28 = h) ∧
      desBit j ((entry pc1 i - 1) % 8 + 1) = true ∧ i % 28 = 27 - p := by
  simp only [pc1t_eq j hk hh, pc1Entry, pc1Bits, getLsbD_scatter, List.any_eq_true, List.mem_filter, List.mem_range,
    Bool.and_eq_true, decide_eq_true_eq, and_assoc]
  refine exists_congr fun i => and_congr_right fun hi => ?_
  obtain ⟨-, hseptet, -⟩ := pc1_position i hi
  rw [septet_and_byteMask_ne_zero j hseptet, longMask_position i hi p hp]

/-- R180's eight lookups, on the septets of the DES key. -/
theorem pc1Half_eq_foldl (kbuf : Vector Byte 8) (h : Nat) :
    pc1Half kbuf h = ((List.range 8).foldl
      (fun v k => v ||| pc1t k h ((desKey kbuf).extractLsb' (57 - 8 * k) 7)) 0).setWidth 28 := by
  simp [pc1Half, List.range_succ, septetOf_eq_desKey]

/-- R180's half `h` holds CD bits 28h+1 to 28h+28, the key bits PC1 names. -/
theorem getLsbD_pc1Half (kbuf : Vector Byte 8) {h p : Nat} (hh : h < 2) (hp : p < 28) :
    (pc1Half kbuf h).getLsbD p = desBit (desKey kbuf) (entry pc1 (28 * h + (27 - p))) := by
  have hbit : ∀ i < 56, desBit ((desKey kbuf).extractLsb' (57 - 8 * ((entry pc1 i - 1) / 8)) 7)
      ((entry pc1 i - 1) % 8 + 1) = desBit (desKey kbuf) (entry pc1 i) := fun i hi => by
    obtain ⟨hbyte, hseptet, hpos⟩ := pc1_position i hi
    refine (desBit_septet (n := 64) _ (by omega) hseptet).trans ?_
    rw [Nat.div_add_mod, Nat.sub_add_cancel hpos]
  rw [Bool.eq_iff_iff, pc1Half_eq_foldl, BitVec.getLsbD_setWidth, decide_eq_true hp, Bool.true_and,
    getLsbD_foldl_or, List.any_eq_true]
  constructor
  · rintro ⟨k, hk, hlookup⟩
    obtain ⟨i, hi, ⟨rfl, hhalf⟩, hkey, hplace⟩ := (getLsbD_pc1t _ (List.mem_range.mp hk) hh hp).mp hlookup
    rwa [show 28 * h + (27 - p) = i by omega, ← hbit i hi]
  · intro hkey
    have hi : 28 * h + (27 - p) < 56 := by omega
    have hk := (pc1_position _ hi).1
    exact ⟨_, List.mem_range.mpr hk, (getLsbD_pc1t _ hk hh hp).mpr
      ⟨_, hi, ⟨rfl, by omega⟩, (hbit _ hi).trans hkey, by omega⟩⟩

/-- R180's C and D are the two halves of PC1 of the DES key. -/
theorem pc1Half_eq_permute (kbuf : Vector Byte 8) {h : Nat} (hh : h < 2) :
    pc1Half kbuf h = (permute 56 pc1 (desKey kbuf)).extractLsb' (28 - 28 * h) 28 := by
  refine BitVec.eq_of_getLsbD_eq fun p hp => ?_
  rw [getLsbD_pc1Half kbuf hh hp, BitVec.getLsbD_extractLsb', permute, getLsbD_ofDesBits _ (by omega),
    decide_eq_true hp, Bool.true_and, show 56 - 1 - (28 - 28 * h + p) = 28 * h + (27 - p) by omega]

/-! ## The rotations (R181, R184) -/

theorem rotl28_eq_rotateLeft (v : KeyHalf) {n : Nat} (hn : n < 28) : rotl28 v n = v.rotateLeft n := by
  rw [BitVec.rotateLeft_def, Nat.mod_eq_of_lt hn, rotl28]

theorem rotateLeft_of_mod_eq_zero (v : KeyHalf) {n : Nat} (hn : n % 28 = 0) : v.rotateLeft n = v := by
  refine BitVec.eq_of_getMsbD_eq fun p hp => ?_
  rw [BitVec.getMsbD_rotateLeft, show (n + p) % 28 = p by omega, decide_eq_true hp, Bool.true_and]

theorem rotateLeft_rotateLeft (v : KeyHalf) (m n : Nat) : (v.rotateLeft m).rotateLeft n = v.rotateLeft (m + n) := by
  refine BitVec.eq_of_getMsbD_eq fun p hp => ?_
  have hsum : (m + (n + p) % 28) % 28 = (m + n + p) % 28 := by omega
  simp only [BitVec.getMsbD_rotateLeft, hsum, Nat.mod_lt _ (by decide : 0 < 28), decide_true, Bool.true_and]

theorem foldl_rotateHalves {ns : List Nat} (hns : ∀ n ∈ ns, n < 28) (cd : KeyHalf × KeyHalf) :
    ns.foldl rotateHalves cd = (cd.1.rotateLeft ns.sum, cd.2.rotateLeft ns.sum) := by
  induction ns generalizing cd with
  | nil => rw [List.foldl_nil, List.sum_nil, rotateLeft_of_mod_eq_zero _ rfl, rotateLeft_of_mod_eq_zero _ rfl]
  | cons n ns ih =>
    obtain ⟨hn, hrest⟩ := List.forall_mem_cons.mp hns
    rw [List.foldl_cons, ih hrest, rotateHalves, rotl28_eq_rotateLeft _ hn, rotl28_eq_rotateLeft _ hn,
      rotateLeft_rotateLeft, rotateLeft_rotateLeft, List.sum_cons]

theorem halvesAt_eq_rotateLeft (cd : KeyHalf × KeyHalf) (i : Nat) :
    halvesAt cd i = (cd.1.rotateLeft (rots.take (i + 1)).sum, cd.2.rotateLeft (rots.take (i + 1)).sum) :=
  foldl_rotateHalves (fun n hn => (by decide : ∀ n ∈ rots, n < 28) n (List.mem_of_mem_take hn)) cd

/-- R182: the rotation totals are 28. -/
theorem halvesAt_fifteen (cd : KeyHalf × KeyHalf) : halvesAt cd 15 = cd := by
  have htotal : (rots.take (15 + 1)).sum % 28 = 0 := by decide
  rw [halvesAt_eq_rotateLeft, rotateLeft_of_mod_eq_zero _ htotal, rotateLeft_of_mod_eq_zero _ htotal]

theorem halvesAt_eq_desHalves (kbuf : Vector Byte 8) (i : Nat) :
    halvesAt (pc1Half kbuf 0, pc1Half kbuf 1) i = desHalves (desKey kbuf) i := by
  rw [halvesAt_eq_rotateLeft, pc1Half_eq_permute kbuf (by decide), pc1Half_eq_permute kbuf (by decide), desHalves]

/-! ## The subkeys (R151, R181) -/

/-- PC2 takes subkey bits 1 to 24 from C and 25 to 48 from D. -/
theorem pc2_position : ∀ i < 48, (entry pc2 i - 1) / 28 = i / 24 ∧ 0 < entry pc2 i := by decide

theorem getLsbD_pc2t {q : Nat} (j : BitVec 7) (hq : q < 8) (p : Nat) :
    (pc2t q j).getLsbD p = true ↔ ∃ i < 48, (entry pc2 i - 1) / 7 = q ∧
      desBit j ((entry pc2 i - 1) % 7 + 1) = true ∧ (bitMask (i % 24)).getLsbD p = true := by
  simp only [pc2t_eq j hq, pc2Entry, pc2Bits, getLsbD_scatter, List.any_eq_true, List.mem_filter, List.mem_range,
    Bool.and_eq_true, decide_eq_true_eq, and_assoc, septet_and_byteMask_ne_zero j (Nat.mod_lt _ (by decide : 0 < 7))]

/-- R181's four lookups of one half. -/
theorem pc2Word_eq_foldl (q : Nat) (c : KeyHalf) :
    pc2Word q c = (List.range 4).foldl (fun v r => v ||| pc2t (q + r) (c.extractLsb' (21 - 7 * r) 7)) 0 := by
  simp [pc2Word, List.range_succ]

/-- Half `h` gives the subkey bits of quarter-word `h`. -/
theorem getLsbD_pc2Word (c : KeyHalf) {h : Nat} (hh : h < 2) (p : Nat) :
    (pc2Word (4 * h) c).getLsbD p = true ↔ ∃ i < 48, i / 24 = h ∧
      desBit c ((entry pc2 i - 1) % 28 + 1) = true ∧ (bitMask (i % 24)).getLsbD p = true := by
  have hbit : ∀ r < 4, ∀ i, (entry pc2 i - 1) / 7 = 4 * h + r →
      desBit (c.extractLsb' (21 - 7 * r) 7) ((entry pc2 i - 1) % 7 + 1) =
        desBit c ((entry pc2 i - 1) % 28 + 1) := fun r hr i hrow => by
    refine (desBit_septet (n := 28) _ (by omega) (Nat.mod_lt _ (by decide))).trans ?_
    congr 1
    omega
  rw [pc2Word_eq_foldl, getLsbD_foldl_or, List.any_eq_true]
  constructor
  · rintro ⟨r, hr, hlookup⟩
    have hr := List.mem_range.mp hr
    obtain ⟨i, hi, hrow, hsubkey, hplace⟩ := (getLsbD_pc2t _ (by omega) p).mp hlookup
    have hhalf := (pc2_position i hi).1
    exact ⟨i, hi, by omega, (hbit r hr i hrow).symm.trans hsubkey, hplace⟩
  · rintro ⟨i, hi, rfl, hsubkey, hplace⟩
    have hhalf := (pc2_position i hi).1
    have hr : (entry pc2 i - 1) / 7 % 4 < 4 := Nat.mod_lt _ (by decide)
    have hrow : (entry pc2 i - 1) / 7 = 4 * (i / 24) + (entry pc2 i - 1) / 7 % 4 := by omega
    exact ⟨_, List.mem_range.mpr hr, (getLsbD_pc2t _ (by omega) p).mpr
      ⟨i, hi, hrow, (hbit _ hr i hrow).trans hsubkey, hplace⟩⟩

/-- A DES bit of C ++ D, from the half it lies in. -/
theorem desBit_halves (c d : KeyHalf) {k : Nat} (hk : 0 < k) (hk' : k ≤ 56) :
    desBit (c ++ d) k = desBit (if (k - 1) / 28 = 0 then c else d) ((k - 1) % 28 + 1) := by
  rw [desBit, desBit, BitVec.getLsbD_append]
  by_cases hupper : (k - 1) / 28 = 0
  · rw [if_pos hupper, if_neg (by omega), show 28 + 28 - k - 28 = 28 - ((k - 1) % 28 + 1) by omega]
  · rw [if_neg hupper, if_pos (by omega), show 28 + 28 - k = 28 - ((k - 1) % 28 + 1) by omega]

/-- R181's two quarter-words are the E-layout word of PC2 of C ++ D. -/
theorem pc2Words_eq_eWord (c d : KeyHalf) :
    (pc2Word 0 c ++ pc2Word 4 d : DWord) = eWord (permute 48 pc2 (c ++ d)) := by
  refine BitVec.eq_of_getLsbD_eq fun p hp => ?_
  have hquarter : (pc2Word 0 c ++ pc2Word 4 d : DWord).getLsbD p =
      (pc2Word (4 * (1 - p / 32)) (if 1 - p / 32 = 0 then c else d)).getLsbD (p % 32) := by
    rw [getLsbD_append32]
    by_cases hlow : p < 32
    · rw [if_pos hlow, Nat.mod_eq_of_lt hlow, Nat.div_eq_of_lt hlow]
      rfl
    · rw [if_neg hlow, show p / 32 = 1 by omega, show p % 32 = p - 32 by omega]
      rfl
  rw [Bool.eq_iff_iff, hquarter, getLsbD_pc2Word _ (by omega), getLsbD_eWord _ hp]
  refine exists_congr fun i => and_congr_right fun hi => ?_
  obtain ⟨hhalf, hpos⟩ := pc2_position i hi
  rw [desBit_permute _ _ hi, desBit_halves c d hpos (by omega), ← bitMask_position i hi p hp, hhalf]
  constructor
  · rintro ⟨h, hbit, hplace⟩
    exact ⟨h ▸ hbit, h, hplace⟩
  · rintro ⟨hbit, h, hplace⟩
    exact ⟨h, h ▸ hbit, hplace⟩

/-- R183, on the KeyScheduler itself. -/
theorem scheduleOf_eq_eWord (kbuf : Vector Byte 8) {i : Nat} (hi : i < 16) :
    (scheduleOf kbuf)[i] = eWord (desSubkey (desKey kbuf) i) ||| keyMarker := by
  rw [scheduleOf, Vector.getElem_ofFn, subkeyOf, pc2Words_eq_eWord, halvesAt_eq_desHalves, desSubkey]

/-! ## KSCHED (R182, R183) -/

theorem exec_ksched_of_safe {s : State} (hsafe : s.fatal = false) :
    exec .ksched s = .next (succeed (runKeyScheduler s)) :=
  congrArg Host.Outcome.next (unlessHalted_of_safe _ hsafe)

/-- Bit 7 of a key byte is in no septet. -/
theorem scheduleOf_map_and (kbuf : Vector Byte 8) :
    scheduleOf (kbuf.map fun b => b &&& 0x7F) = scheduleOf kbuf := by
  have hseptet : ∀ b : Byte, septetOf (b &&& 0x7F) = septetOf b := by decide
  simp only [scheduleOf, pc1Half, Vector.getElem_map, hseptet]

theorem permute_zero {n : Nat} (m : Nat) (t : List Nat) : permute m t (0 : BitVec n) = 0 := by
  refine BitVec.eq_of_getLsbD_eq fun p hp => ?_
  rw [permute, getLsbD_ofDesBits _ hp, desBit]
  exact BitVec.getLsbD_zero.trans BitVec.getLsbD_zero.symm

/-- Every subkey of the zero key is zero. -/
theorem desSubkey_zero (i : Nat) : desSubkey 0 i = 0 := by
  have hhalf : ∀ n, (0 : KeyHalf).rotateLeft n = 0 := fun n => by simp [BitVec.rotateLeft_def]
  have hhalves : desHalves 0 i = (0, 0) := by
    rw [desHalves, permute_zero]
    exact Prod.ext (hhalf _) (hhalf _)
  rw [desSubkey, hhalves]
  exact permute_zero 48 pc2

theorem scheduleOf_zero {i : Nat} (hi : i < 16) : (scheduleOf #v[0, 0, 0, 0, 0, 0, 0, 0])[i] = keyMarker := by
  have hkey : desKey #v[0, 0, 0, 0, 0, 0, 0, 0] = 0 := by decide
  have hword : eWord 0 ||| keyMarker = keyMarker := by decide
  rw [scheduleOf_eq_eWord _ hi, hkey, desSubkey_zero, hword]

/-- Settles O28: KSCHED leaves the schedule of KBUF, whose words are the standard subkeys laid out. -/
theorem keyScheduleClosedForm : Obligations.KeyScheduleClosedForm := fun s hsafe =>
  ⟨_, exec_ksched_of_safe hsafe, fun _ => scheduleOf_eq_eWord s.kbuf⟩

/-- Settles O27: the whole next state, and R182's three corner cases. -/
theorem kschedEffect : Obligations.KschedEffect :=
  ⟨fun _ => exec_ksched_of_safe, scheduleOf_map_and, fun _ => scheduleOf_zero, halvesAt_fifteen⟩

end Sys2Proof.Machine
end

section
/-!
PROOFS. Salt values and masks (42_salt.md R200, R201): SaltValue against ALPHA, and the salt mask as the twelve salt bits
from bit 30 downwards.
-/
namespace Sys2Proof.Machine

/-! ## The alphabet (R200, R264) -/

theorem saltValue_alpha (v : BitVec 6) : saltValue (alpha v) = some v := by
  revert v
  decide

theorem alpha_of_saltValue : ∀ c : Byte, ∀ v ∈ saltValue c, c = alpha v := by decide

theorem saltValue_eq_some_iff {c : Byte} {v : BitVec 6} : saltValue c = some v ↔ c = alpha v :=
  ⟨alpha_of_saltValue c v, fun h => h ▸ saltValue_alpha v⟩

/-- Settles O29. -/
theorem saltAlphabet : Obligations.SaltAlphabet := ⟨fun _ _ => saltValue_eq_some_iff, by decide⟩

/-! ## The mask (R201) -/

theorem saltValueOf_of_some {c : Byte} {v : BitVec 6} (h : saltValue c = some v) : saltValueOf c = v := by
  rw [saltValueOf, h, Option.getD_some]

/-- R201's two loops are one, over the twelve salt bits. -/
theorem saltMask_eq_scatter (c0 c1 : Byte) :
    saltMask c0 c1 = scatter (List.range 12) (saltValueOf c1 ++ saltValueOf c0).getLsbD bitMask := by
  have hrange : List.range 12 = List.range 6 ++ (List.range 6).map (6 + ·) := by decide
  have hfirst : addSaltBits 0 (saltValueOf c0) 0 =
      scatter (List.range 6) (saltValueOf c1 ++ saltValueOf c0).getLsbD bitMask :=
    List.foldl_ext _ _ _ fun m j hj => by
      rw [BitVec.getLsbD_append, if_pos (List.mem_range.mp hj), Nat.mul_zero, Nat.zero_add]
  rw [saltMask, hfirst, hrange]
  unfold scatter
  rw [List.foldl_append, List.foldl_map]
  refine List.foldl_ext _ _ _ fun m j _ => ?_
  rw [BitVec.getLsbD_append, if_neg (show ¬ 6 + j < 6 by omega), Nat.add_sub_cancel_left, Nat.mul_one]

/-- Salt bit j is mask bit 30 - j, and the mask has no other bit. -/
theorem getLsbD_saltMask (c0 c1 : Byte) {p : Nat} (hp : p < 32) :
    (saltMask c0 c1).getLsbD p =
      (decide (19 ≤ p ∧ p < 31) && (saltValueOf c1 ++ saltValueOf c0).getLsbD (30 - p)) := by
  have hplace : ∀ j < 12, ∀ p < 32, (bitMask j).getLsbD p = true ↔ (19 ≤ p ∧ p < 31) ∧ j = 30 - p := by decide
  rw [Bool.eq_iff_iff, saltMask_eq_scatter, getLsbD_scatter, List.any_eq_true]
  simp only [List.mem_range, Bool.and_eq_true, decide_eq_true_eq]
  constructor
  · rintro ⟨j, hj, hbit, hmask⟩
    obtain ⟨hrange, rfl⟩ := (hplace j hj p hp).mp hmask
    exact ⟨hrange, hbit⟩
  · rintro ⟨hrange, hbit⟩
    exact ⟨30 - p, by omega, hbit, (hplace _ (by omega) p hp).mpr ⟨hrange, rfl⟩⟩

theorem getLsbD_saltMask_of_lt (c0 c1 : Byte) {p : Nat} (hp : p < 19) : (saltMask c0 c1).getLsbD p = false := by
  rw [getLsbD_saltMask c0 c1 (by omega), decide_eq_false (by omega), Bool.false_and]

theorem getLsbD_saltMask_first (c0 c1 : Byte) {j : Nat} (hj : j < 6) :
    (saltMask c0 c1).getLsbD (30 - j) = (saltValueOf c0).getLsbD j := by
  rw [getLsbD_saltMask c0 c1 (by omega), decide_eq_true (by omega), Bool.true_and, BitVec.getLsbD_append,
    show 30 - (30 - j) = j by omega, if_pos hj]

theorem getLsbD_saltMask_second (c0 c1 : Byte) {j : Nat} (hj : j < 6) :
    (saltMask c0 c1).getLsbD (24 - j) = (saltValueOf c1).getLsbD j := by
  rw [getLsbD_saltMask c0 c1 (by omega), decide_eq_true (by omega), Bool.true_and, BitVec.getLsbD_append,
    if_neg (by omega), show 30 - (24 - j) - 6 = j by omega]

/-- Both values can be read off the mask. -/
theorem saltValueOf_eq_of_saltMask_eq {c0 c1 d0 d1 : Byte} (h : saltMask c0 c1 = saltMask d0 d1) :
    saltValueOf c0 = saltValueOf d0 ∧ saltValueOf c1 = saltValueOf d1 := by
  constructor <;> refine BitVec.eq_of_getLsbD_eq fun j hj => ?_
  · rw [← getLsbD_saltMask_first c0 c1 hj, h, getLsbD_saltMask_first d0 d1 hj]
  · rw [← getLsbD_saltMask_second c0 c1 hj, h, getLsbD_saltMask_second d0 d1 hj]

/-- A character of the alphabet is ALPHA of its value. -/
theorem alpha_saltValueOf {c : Byte} (h : inAlphabet c) : alpha (saltValueOf c) = c := by
  obtain ⟨v, hv⟩ := Option.ne_none_iff_exists'.mp h
  rw [saltValueOf_of_some hv, ← saltValue_eq_some_iff.mp hv]

theorem eq_of_saltValueOf_eq {c d : Byte} (hc : inAlphabet c) (hd : inAlphabet d)
    (h : saltValueOf c = saltValueOf d) : c = d := by
  rw [← alpha_saltValueOf hc, h, alpha_saltValueOf hd]

/-- Settles O30: the mask's bits are the two values', and a valid character is known by its value. -/
theorem saltMaskBits : Obligations.SaltMaskBits := by
  intro c0 c1 v0 v1 h0 h1
  obtain rfl := saltValueOf_of_some h0
  obtain rfl := saltValueOf_of_some h1
  have hc0 : inAlphabet c0 := Option.ne_none_iff_exists'.mpr ⟨_, h0⟩
  have hc1 : inAlphabet c1 := Option.ne_none_iff_exists'.mpr ⟨_, h1⟩
  refine ⟨fun j hj => ⟨getLsbD_saltMask_first c0 c1 hj, getLsbD_saltMask_second c0 c1 hj⟩,
    getLsbD_saltMask c0 c1 (by decide), fun p => getLsbD_saltMask_of_lt c0 c1, fun d0 d1 hd0 hd1 hmask => ?_⟩
  obtain ⟨hfirst, hsecond⟩ := saltValueOf_eq_of_saltMask_eq hmask
  exact ⟨eq_of_saltValueOf_eq hc0 hd0 hfirst, eq_of_saltValueOf_eq hc1 hd1 hsecond⟩

end Sys2Proof.Machine
end

section
/-!
PROOFS. SHUF1 on the E-layout (42_salt.md R202, R206): E bits k and k + 24 lie 32 positions apart, so a swap under a salt
mask exchanges E bits, which is what the salted expansion does with its entries.
-/
namespace Sys2Proof.Machine

/-! ## Words of the E-layout (R12) -/

/-- The data positions are the places of the 48 E bits. -/
theorem eLayoutMask_eq_eWord : eLayoutMask = eWord (BitVec.allOnes 48) := by decide

theorem eLayoutMask_iff_ePosition {p : Nat} (hp : p < 64) :
    eLayoutMask.getLsbD p = true ↔ ∃ i < 48, ePosition (i + 1) = p := by
  rw [eLayoutMask_eq_eWord, getLsbD_eWord _ hp]
  refine exists_congr fun i => and_congr_right fun hi => and_iff_right ?_
  rw [desBit, BitVec.getLsbD_allOnes]
  exact decide_eq_true (by omega)

theorem ePosition_lt {i : Nat} : ePosition (i + 1) < 64 := by
  unfold ePosition
  split_ifs <;> omega

theorem ePosition_injective {i j : Nat} (hi : i < 48) (hj : j < 48) (h : ePosition (i + 1) = ePosition (j + 1)) :
    i = j := by
  unfold ePosition at h
  split_ifs at h <;> omega

theorem isELayout_eWord (e : BitVec 48) : isELayout (eWord e) := by
  rw [isELayout_iff]
  intro p hp h
  obtain ⟨i, hi, -, hpos⟩ := (getLsbD_eWord e hp).mp h
  exact (eLayoutMask_iff_ePosition hp).mpr ⟨i, hi, hpos⟩

theorem getLsbD_eWord_ePosition (e : BitVec 48) {i : Nat} (hi : i < 48) :
    (eWord e).getLsbD (ePosition (i + 1)) = desBit e (i + 1) := by
  rw [Bool.eq_iff_iff, getLsbD_eWord e ePosition_lt]
  constructor
  · rintro ⟨j, hj, hbit, hpos⟩
    rwa [← ePosition_injective hj hi hpos]
  · exact fun hbit => ⟨i, hi, hbit, rfl⟩

/-- An E-layout word is known by its 48 E bits. -/
theorem eq_eWord_of_ePosition {x : DWord} {e : BitVec 48} (hx : isELayout x)
    (h : ∀ i < 48, x.getLsbD (ePosition (i + 1)) = desBit e (i + 1)) : x = eWord e := by
  refine BitVec.eq_of_getLsbD_eq fun p hp => ?_
  by_cases hdata : eLayoutMask.getLsbD p = true
  · obtain ⟨i, hi, rfl⟩ := (eLayoutMask_iff_ePosition hp).mp hdata
    rw [h i hi, getLsbD_eWord_ePosition e hi]
  · have hzero : ∀ y : DWord, isELayout y → y.getLsbD p = false := fun y hy =>
      Bool.eq_false_of_not_eq_true fun hbit => hdata (isELayout_iff.mp hy p hp hbit)
    rw [hzero x hx, hzero _ (isELayout_eWord e)]

/-! ## The exchange of E bits (R202) -/

theorem ePosition_upper {i : Nat} (hi : i < 12) :
    ePosition (i + 1) % 32 = 30 - i ∧ (ePosition (i + 1) + 32) % 64 = ePosition (i + 24 + 1) := by
  unfold ePosition
  split_ifs <;> omega

theorem ePosition_lower {i : Nat} (hi : 24 ≤ i) (hi' : i < 36) :
    ePosition (i + 1) % 32 = 54 - i ∧ (ePosition (i + 1) + 32) % 64 = ePosition (i - 24 + 1) := by
  unfold ePosition
  split_ifs <;> omega

theorem ePosition_unsalted {i : Nat} (hi : i < 48) (hupper : ¬ i < 12) (hlower : ¬ (24 ≤ i ∧ i < 36)) :
    ePosition (i + 1) % 32 < 19 := by
  unfold ePosition
  split_ifs <;> omega

/-- Settles O31, E bit by E bit: i < 12, its partner i + 24, and the E bits no salt bit governs. -/
theorem swapExchangesEBits : Obligations.SwapExchangesEBits := fun c0 c1 e _ _ => by
  refine eq_eWord_of_ePosition (isELayout_shuf1 _ (isELayout_eWord e)) fun i hi => ?_
  rw [desBit_ofDesBits _ hi, getLsbD_shuf1 _ _ ePosition_lt, getLsbD_eWord_ePosition e hi]
  by_cases hupper : i < 12
  · obtain ⟨hmaskBit, hpartner⟩ := ePosition_upper hupper
    rw [hmaskBit, hpartner, getLsbD_eWord_ePosition e (by omega)]
    simp [hupper, show ¬ 24 ≤ i by omega]
  by_cases hlower : 24 ≤ i ∧ i < 36
  · obtain ⟨hmaskBit, hpartner⟩ := ePosition_lower hlower.1 hlower.2
    rw [hmaskBit, hpartner, getLsbD_eWord_ePosition e (by omega), show i - 24 + 1 = i - 23 by omega]
    simp [hupper, hlower]
  · have hmaskBit := getLsbD_saltMask_of_lt c0 c1 (ePosition_unsalted hi hupper hlower)
    rw [hmaskBit, if_neg Bool.false_ne_true, if_neg (fun h => hupper h.1), if_neg (fun h => hlower ⟨h.1, h.2.1⟩)]

/-! ## The salted banks (R206) -/

/-- R206's entries, with the mask bit of the lower exchange at its own place. -/
theorem entry_saltedEsel (mask : Word) {i : Nat} (hi : i < 48) :
    entry (saltedEsel mask) i =
      if i < 12 ∧ mask.getLsbD (30 - i) then entry esel (i + 24)
      else if 24 ≤ i ∧ i < 36 ∧ mask.getLsbD (54 - i) then entry esel (i - 24)
      else entry esel i := by
  have hlower : (24 ≤ i ∧ i < 36 ∧ mask.getLsbD (54 - i)) ↔ 24 ≤ i ∧ i < 36 ∧ mask.getLsbD (30 - (i - 24)) :=
    and_congr_right fun h => by rw [show 54 - i = 30 - (i - 24) by omega]
  simp [hlower, entry, saltedEsel, hi]

/-- Exchanging the E bits of an expanded half is expanding it by the salted table. -/
theorem shuf1_eWord_esel {c0 c1 : Byte} (h0 : inAlphabet c0) (h1 : inAlphabet c1) (half : BitVec 32) :
    shuf1 (eWord (permute 48 esel half)) (saltMask c0 c1) =
      eWord (permute 48 (saltedEsel (saltMask c0 c1)) half) := by
  rw [swapExchangesEBits c0 c1 _ h0 h1]
  refine eq_eWord_of_ePosition (isELayout_eWord _) fun i hi => ?_
  rw [getLsbD_eWord_ePosition _ hi, desBit_ofDesBits _ hi, desBit_permute (saltedEsel _) half hi,
    entry_saltedEsel _ hi]
  split_ifs with hupper hlower
  · exact desBit_permute esel half (by omega)
  · rw [show i - 23 = i - 24 + 1 by omega]
    exact desBit_permute esel half (by omega)
  · exact desBit_permute esel half hi

/-- Settles O36: the entry is BASE's closed form swapped by the mask. -/
theorem saltedBankClosedForm : Obligations.SaltedBankClosedForm := by
  intro s c0 c1 h0 h1 hmask hbanks sg j1 j2 hsg hj1 hj2
  rw [hbanks sg _ hsg (by omega), (baseBankClosedForm sg j1 j2 hsg hj1 hj2).1, hmask, shuf1_eWord_esel h0 h1]

end Sys2Proof.Machine
end

section
/-!
PROOFS. SETSALT and SALTPERM (42_salt.md R203 to R205, R207).
-/
namespace Sys2Proof.Machine

/-! ## SETSALT (R203) -/

theorem exec_setsalt_three (s : State) (c0 c1 : Byte) : exec (.setsalt 3 c0 c1) s = .next (illegalCommand s) := rfl

section
variable {s : State} (hsafe : s.fatal = false)
include hsafe

theorem exec_setsalt_short {n : BitVec 2} (hn : n < 2) (c0 c1 : Byte) :
    exec (.setsalt n c0 c1) s = .next (raise .shortSalt s) := by
  have hcount : n ≠ 3 := by rintro rfl; exact absurd hn (by decide)
  refine congrArg Host.Outcome.next ?_
  rw [if_neg hcount, unlessHalted_of_safe _ hsafe, if_pos hn]

/-- With two characters the one that is invalid decides, whichever it is. -/
theorem exec_setsalt_two (c0 c1 : Byte) :
    exec (.setsalt 2 c0 c1) s =
      .next (if saltValue c0 = none then raise .invalidSalt s
        else if saltValue c1 = none then raise .invalidSalt s
        else succeed (storeSalt s c0 c1)) :=
  congrArg Host.Outcome.next (unlessHalted_of_safe _ hsafe)

theorem exec_setsalt_invalid {c0 c1 : Byte} (h : ¬ (inAlphabet c0 ∧ inAlphabet c1)) :
    exec (.setsalt 2 c0 c1) s = .next (raise .invalidSalt s) := by
  rw [exec_setsalt_two hsafe]
  split_ifs with h0 h1
  · rfl
  · rfl
  · exact absurd ⟨h0, h1⟩ h

theorem exec_setsalt_valid {c0 c1 : Byte} (h0 : inAlphabet c0) (h1 : inAlphabet c1) :
    exec (.setsalt 2 c0 c1) s = .next (succeed (storeSalt s c0 c1)) := by
  rw [exec_setsalt_two hsafe, if_neg h0, if_neg h1]

end

/-- Settles O32. -/
theorem setsaltEffect : Obligations.SetsaltEffect := by
  intro s n c0 c1
  refine ⟨?_, fun hsafe hn => exec_setsalt_short hsafe hn c0 c1, ?_, ?_⟩
  · rintro rfl
    exact exec_setsalt_three s c0 c1
  · rintro hsafe rfl
    exact exec_setsalt_invalid hsafe
  · rintro hsafe rfl
    exact exec_setsalt_valid hsafe

/-! ## SALTPERM (R204, R205, R207) -/

theorem exec_saltperm_of_salted {s : State} (hsafe : s.fatal = false) (hv : s.saltv = true) :
    exec .saltperm s = .next (succeed (applySalt s)) := by
  refine congrArg Host.Outcome.next ?_
  rw [unlessHalted_of_safe _ hsafe, if_pos hv]

theorem exec_saltperm_of_unsalted {s : State} (hsafe : s.fatal = false) (hv : s.saltv = false) :
    exec .saltperm s = .next (raise .shortSalt s) := by
  refine congrArg Host.Outcome.next ?_
  rw [unlessHalted_of_safe _ hsafe, if_neg (Bool.eq_false_iff.mp hv)]

theorem exec_saltperm_of_fatal {s : State} (hfatal : s.fatal = true) :
    exec .saltperm s = .next (raise .halted s) :=
  congrArg Host.Outcome.next (unlessHalted_of_fatal _ hfatal)

/-- Settles O33: the whole next state is ApplySalt's, whose memo hit writes nothing. -/
theorem saltpermEffect : Obligations.SaltpermEffect := by
  refine fun s hsafe => ⟨fun hv => ⟨_, exec_saltperm_of_salted hsafe hv, ?_, fun b i _ _ => ?_, fun hmemo => ?_⟩,
    exec_saltperm_of_unsalted hsafe⟩
  · apply state_ext <;> simp
  · rw [succeed_mask, applySalt_mask]
    exact bankEntry_applySalt s b i
  · rw [applySalt_of_memo hmemo]
    rfl

/-- Settles O34: the second SALTPERM hits the memo, and while FATAL = 1 both are Halted. -/
theorem saltpermIdempotent : Obligations.SaltpermIdempotent := fun s hv => by
  cases hfatal : s.fatal
  · have hmemo : applySalt (succeed (applySalt s)) = succeed (applySalt s) := applySalt_of_memo (by simp)
    have hagain : exec .saltperm (succeed (applySalt s)) = .next (succeed (applySalt (succeed (applySalt s)))) :=
      exec_saltperm_of_salted (by simpa using hfatal) (by simpa using hv)
    refine ⟨_, exec_saltperm_of_salted hfatal hv, hagain.trans ?_⟩
    rw [hmemo]
    rfl
  · exact ⟨_, exec_saltperm_of_fatal hfatal, exec_saltperm_of_fatal (s := raise .halted s) hfatal⟩

end Sys2Proof.Machine
end

section
/-!
PROOFS. The index words of R231 (43_feistel.md R233, R237): off the data positions only the KEY_MARKER bits can be set,
so every chunk is aligned and selects its bank.
-/
namespace Sys2Proof.Machine

/-! ## Chunks and the entries they select (R233) -/

theorem chunk_bank (x : DWord) (lo : Nat) : (x.extractLsb' lo 16).toNat / 0x8000 = (x.getLsbD (lo + 15)).toNat := by
  rw [BitVec.extractLsb'_toNat, BitVec.getLsbD, Nat.toNat_testBit, Nat.shiftRight_eq_div_pow, Nat.pow_add,
    ← Nat.div_div_eq_div_mul]
  omega

/-- chunk[14:3] is `(j1 << 6) | j2`. -/
theorem chunk_entry (x : DWord) (lo : Nat) : (x.extractLsb' lo 16).toNat % 0x8000 / 8 =
    64 * (x.extractLsb' (lo + 9) 6).toNat + (x.extractLsb' (lo + 3) 6).toNat := by
  simp only [BitVec.extractLsb'_toNat, Nat.shiftRight_add]
  omega

theorem chunk_mod_eight (x : DWord) (lo : Nat) : (x.extractLsb' lo 16).toNat % 8 = (x.extractLsb' lo 3).toNat := by
  simp only [BitVec.extractLsb'_toNat]
  omega

theorem chunksAligned_iff {x : DWord} : chunksAligned x ↔
    x.extractLsb' 0 3 = 0 ∧ x.extractLsb' 16 3 = 0 ∧ x.extractLsb' 32 3 = 0 ∧ x.extractLsb' 48 3 = 0 := by
  simp only [chunksAligned, chunk_mod_eight, ← BitVec.toNat_inj, BitVec.ofNat_eq_ofNat, BitVec.toNat_zero]

/-! ## Words that agree off the data positions -/

theorem isELayout_xor_xor {x : DWord} (hx : isELayout x) (y : DWord) : isELayout (x ^^^ y ^^^ y) := by
  rwa [BitVec.xor_assoc, BitVec.xor_self, BitVec.xor_zero]

theorem getLsbD_eq_of_isELayout_xor {x y : DWord} (h : isELayout (x ^^^ y)) {p : Nat} (hp : p < 64)
    (hoff : eLayoutMask.getLsbD p = false) : x.getLsbD p = y.getLsbD p := by
  have hbit : (x ^^^ y).getLsbD p = false :=
    Bool.eq_false_of_not_eq_true fun hset => by simp [isELayout_iff.mp h p hp hset] at hoff
  simpa using hbit

/-- The low three bits of a chunk are no data positions. -/
theorem extractLsb'_eq_of_isELayout_xor {x y : DWord} (h : isELayout (x ^^^ y)) {lo : Nat} (hlo : lo < 64)
    (hchunk : lo % 16 = 0) : x.extractLsb' lo 3 = y.extractLsb' lo 3 := by
  have hoff : ∀ lo < 64, lo % 16 = 0 → ∀ k < 3, eLayoutMask.getLsbD (lo + k) = false := by decide
  refine BitVec.eq_of_getLsbD_eq fun k hk => ?_
  rw [BitVec.getLsbD_extractLsb', BitVec.getLsbD_extractLsb',
    getLsbD_eq_of_isELayout_xor h (by omega) (hoff lo hlo hchunk k hk)]

/-- So alignment is a matter of the bits off the data positions. -/
theorem chunksAligned_of_isELayout_xor {x y : DWord} (h : isELayout (x ^^^ y)) (hy : chunksAligned y) :
    chunksAligned x := by
  rw [chunksAligned_iff] at *
  simpa (disch := decide) only [extractLsb'_eq_of_isELayout_xor h] using hy

/-! ## Index words (R233, R237) -/

/-- Settles O39: bits 63, 31 are 0 and bits 47, 15 are 1, so the chunks' offsets lie in banks 0, 2, 1 and 3. -/
theorem indexWordSelectsBanks : Obligations.IndexWordSelectsBanks := by
  intro s x h
  have h63 : x.getLsbD 63 = false := getLsbD_eq_of_isELayout_xor h (by decide) (by decide)
  have h47 : x.getLsbD 47 = true := getLsbD_eq_of_isELayout_xor h (by decide) (by decide)
  have h31 : x.getLsbD 31 = false := getLsbD_eq_of_isELayout_xor h (by decide) (by decide)
  have h15 : x.getLsbD 15 = true := getLsbD_eq_of_isELayout_xor h (by decide) (by decide)
  have haligned : chunksAligned x := chunksAligned_of_isELayout_xor h (by unfold chunksAligned; decide)
  rw [feistelF_of_aligned s haligned]
  simp only [chunk_bank, chunk_entry, Nat.reduceAdd, h63, h47, h31, h15, Bool.toNat_false, Bool.toNat_true]
  ac_rfl

/-- KEY_MARKER's bits are no data positions. -/
theorem eWord_or_keyMarker (e : BitVec 48) : eWord e ||| keyMarker = eWord e ^^^ keyMarker := by
  have hdisjoint : ∀ p < 64, eLayoutMask.getLsbD p = true → keyMarker.getLsbD p = false := by decide
  refine BitVec.eq_of_getLsbD_eq fun p hp => ?_
  rw [BitVec.getLsbD_or, BitVec.getLsbD_xor]
  cases hbit : (eWord e).getLsbD p
  · rw [Bool.false_or, Bool.false_xor]
  · rw [hdisjoint p hp (isELayout_iff.mp (isELayout_eWord e) p hp hbit)]
    rfl

/-- R38: off the data positions a legal subkey is 0 or KEY_MARKER. -/
theorem subkey_marker {s : State} (h : ScheduleLegal s) {i : Nat} (hi : i < 16) :
    ∃ marker, (marker = 0 ∨ marker = keyMarker) ∧ isELayout (s.ks[i] ^^^ marker) := by
  obtain hzero | ⟨key, hkey⟩ := h
  · refine ⟨0, .inl rfl, ?_⟩
    rw [hzero i hi]
    exact isELayout_zero
  · refine ⟨keyMarker, .inr rfl, ?_⟩
    simp only [hkey, scheduleOf_eq_eWord key hi, eWord_or_keyMarker]
    exact isELayout_xor_xor (isELayout_eWord _) keyMarker

theorem chunksAligned_subkey {s : State} (h : ScheduleLegal s) {i : Nat} (hi : i < 16) : chunksAligned s.ks[i] := by
  obtain ⟨marker, hmarker, hlayout⟩ := subkey_marker h hi
  refine chunksAligned_of_isELayout_xor hlayout ?_
  unfold chunksAligned
  obtain rfl | rfl := hmarker <;> decide

theorem subkey_top_bits {s : State} (h : ScheduleLegal s) {i : Nat} (hi : i < 16) :
    s.ks[i].getLsbD 63 = false ∧ s.ks[i].getLsbD 31 = false := by
  obtain ⟨marker, hmarker, hlayout⟩ := subkey_marker h hi
  rw [getLsbD_eq_of_isELayout_xor hlayout (p := 63) (by decide) (by decide),
    getLsbD_eq_of_isELayout_xor hlayout (p := 31) (by decide) (by decide)]
  obtain rfl | rfl := hmarker <;> decide

end Sys2Proof.Machine
end

section
/-!
PROOFS. While the banks hold E-layout words and the subkeys are aligned, every index word of RunFeistel is aligned: from
a legal state FEISTEL and DIGEST raise no violation (43_feistel.md R237).
-/
namespace Sys2Proof.Machine

/-! ## RunFeistel completes (R237) -/

/-- F reads four entries when the subkey is aligned and the half is an E-layout word. -/
theorem feistelF_completes (s : State) {k half : DWord} (hk : chunksAligned k) (hhalf : isELayout half) :
    ∃ f, feistelF s (k ^^^ half) = some f := by
  have hdata : isELayout (k ^^^ half ^^^ k) := BitVec.xor_comm half k ▸ isELayout_xor_xor hhalf k
  exact ⟨_, feistelF_of_aligned s (chunksAligned_of_isELayout_xor hdata hk)⟩

section
variable {s : State} (hbanks : BanksMatchMask s)
include hbanks

theorem subStep_completes {k0 k1 : DWord} (h0 : chunksAligned k0) (h1 : chunksAligned k1) {lr : DWord × DWord}
    (hlr : isELayout lr.1 ∧ isELayout lr.2) : ∃ lr', subStep s k0 k1 lr = some lr' := by
  obtain ⟨f, hf⟩ := feistelF_completes s h0 hlr.2
  obtain ⟨g, hg⟩ := feistelF_completes s h1 (isELayout_xor hlr.1 (isELayout_feistelF hbanks hf))
  exact ⟨(lr.1 ^^^ f, lr.2 ^^^ g), by simp only [subStep, hf, hg]⟩

theorem subSteps_completes {ks : List DWord} (hks : ∀ k ∈ ks, chunksAligned k) {lr : DWord × DWord}
    (hlr : isELayout lr.1 ∧ isELayout lr.2) : ∃ lr', subSteps s ks lr = some lr' := by
  induction ks using List.twoStepInduction generalizing lr with
  | nil | singleton => exact ⟨lr, rfl⟩
  | cons_cons k0 k1 rest ih _ =>
    simp only [List.forall_mem_cons] at hks
    obtain ⟨h0, h1, hrest⟩ := hks
    obtain ⟨mid, hmid⟩ := subStep_completes hbanks h0 h1 hlr
    simpa only [subSteps, hmid] using ih hrest (isELayout_subStep hbanks hmid hlr)

theorem iterations_completes (hks : ∀ k ∈ s.ks.toList, chunksAligned k) (n : Nat) {lr : DWord × DWord}
    (hlr : isELayout lr.1 ∧ isELayout lr.2) : ∃ lr', iterations s n lr = some lr' := by
  induction n generalizing lr with
  | zero => exact ⟨lr, rfl⟩
  | succ n ih =>
    obtain ⟨last, hlast⟩ := subSteps_completes hbanks hks hlr
    simpa only [iterations, iteration, hlast] using ih (isELayout_subSteps hbanks _ hlast hlr).symm

/-- R237: with INV-BANK and a legal schedule no lookup of RunFeistel raises the violation. -/
theorem runFeistel_completes (hks : ScheduleLegal s) : ∃ lr, runFeistel s = some lr := by
  refine iterations_completes hbanks (fun k hk => ?_) _ ⟨isELayout_zero, isELayout_zero⟩
  obtain ⟨i, hi, rfl⟩ := List.mem_iff_getElem.mp hk
  exact chunksAligned_subkey hks (by simpa using hi)

end

/-! ## Runs from a legal state (R237) -/

/-- FEISTEL runs on a legal state, and DIGEST's FeistelEngine on the legal state its first units leave. -/
theorem not_violates {s u : State} {i : Instr} (h : Legal s) : ¬ Violates s i u := fun hv => by
  have hnone : ∀ v : State, Legal v → runFeistel v ≠ none := fun v hv hnone => by
    obtain ⟨lr, hlr⟩ := runFeistel_completes hv.banks hv.schedule
    rw [hnone] at hlr
    cases hlr
  cases hv with
  | feistel run => exact hnone s h run
  | digest salted run => exact hnone _ (legal_prepareDigest h salted) run

theorem Ends.err_ne_three {s t : State} {i : Instr} (h : Ends s i t) (hlegal : Legal s) : t.err ≠ 3 := by
  cases h with
  | illegal => exact (by decide : ErrorCode.illegalCommand.code ≠ 3)
  | refused e why => exact (firstError_code why).2
  | completed u hu => exact (by decide : ErrorCode.ok.code ≠ 3)
  | violated _ u fault => exact absurd fault (not_violates hlegal)

theorem runWord_err_ne_three {w : Word} {s t : State} (hlegal : Legal s) (h : runWord w s = .next t) : t.err ≠ 3 := by
  obtain ⟨i, -, hends⟩ | rfl := runWord_cases h
  · exact hends.err_ne_three hlegal
  · exact (by decide : ErrorCode.illegalCommand.code ≠ 3)

/-- FATAL follows ERR = 3, and the reset input leaves 0. -/
theorem step_safe {s t : State} (hlegal : Legal s) (h : step s = .next t) (hsafe : Safe s) : Safe t := by
  cases hp : s.port with
  | nil =>
    rw [step_of_empty hp] at h
    cases h
    exact hsafe
  | cons ev rest =>
    cases ev with
    | hardwareReset =>
      rw [step_of_hardwareReset hp] at h
      cases h
      rfl
    | command w =>
      rw [step_of_command hp] at h
      refine Bool.eq_false_of_not_eq_true fun hfatal => ?_
      exact runWord_err_ne_three (legal_withPort rest hlegal) h ((runWord_fatal_iff_err h hsafe).mp hfatal)

/-- Settles O57: RunFeistel completes from every legal state, and an index word agrees with its subkey off the data
positions. -/
theorem legalRunsNeverFault : Obligations.LegalRunsNeverFault := by
  refine fun s hlegal => ⟨fun _ _ => runWord_err_ne_three hlegal, fun _ => step_safe hlegal,
    fun _ _ => isELayout_bankEntry hlegal.banks, ?_⟩
  rintro i hi half x hhalf rfl
  obtain ⟨h63, h31⟩ := subkey_top_bits hlegal.schedule hi
  have hdata : isELayout (s.ks[i] ^^^ half ^^^ s.ks[i]) := BitVec.xor_comm half s.ks[i] ▸ isELayout_xor_xor hhalf _
  have haligned := chunksAligned_of_isELayout_xor hdata (chunksAligned_subkey hlegal.schedule hi)
  obtain ⟨hlow0, hlow16, hlow32, hlow48⟩ := chunksAligned_iff.mp haligned
  have hbit := fun p => getLsbD_eq_of_isELayout_xor hdata (p := p)
  refine ⟨(hbit 63 (by decide) (by decide)).trans h63, (hbit 31 (by decide) (by decide)).trans h31, hlow48, hlow32,
    hlow16, hlow0, hbit 47 (by decide) (by decide), hbit 15 (by decide) (by decide), ?_⟩
  rw [feistelF_of_aligned s haligned]
  exact Option.some_ne_none _

end Sys2Proof.Machine
end

section
/-!
PROOFS. FEISTEL's next state (43_feistel.md R234, R235), and the zero schedule, which needs nothing of the banks.
-/
namespace Sys2Proof.Machine

/-! ## FEISTEL (R234, R235) -/

theorem exec_feistel_of_some {s : State} {lr : DWord × DWord} (hsafe : s.fatal = false)
    (h : runFeistel s = some lr) : exec .feistel s = .next (succeed (setHalves s lr)) := by
  refine congrArg Host.Outcome.next ?_
  rw [unlessHalted_of_safe _ hsafe, h]

/-- RunFeistel reads neither L, R nor ERR. -/
theorem runFeistel_succeed_setHalves (s : State) (lr : DWord × DWord) :
    runFeistel (succeed (setHalves s lr)) = runFeistel s :=
  runFeistel_congr (fun _ _ => rfl) rfl

/-- Settles O40: RunFeistel completes with E-layout halves, and completes so again from the state FEISTEL leaves. -/
theorem feistelEffect : Obligations.FeistelEffect := by
  intro s hsafe hbanks _ hks
  obtain ⟨lr, hrun⟩ := runFeistel_completes hbanks hks
  obtain ⟨hl, hr⟩ := isELayout_runFeistel hbanks hrun
  have hagain := (runFeistel_succeed_setHalves s lr).trans hrun
  exact ⟨lr.1, lr.2, hrun, hl, hr, exec_feistel_of_some hsafe hrun, exec_feistel_of_some hsafe hagain⟩

/-! ## The zero schedule (R235) -/

/-- Index word 0 reads entry 0 of banks 0 and 2 twice each. -/
theorem feistelF_zero (s : State) : feistelF s 0#64 = some 0#64 := by
  rw [feistelF_of_aligned s (by unfold chunksAligned; decide)]
  simp

theorem subSteps_zero (s : State) {ks : List DWord} (hks : ∀ k ∈ ks, k = 0) : subSteps s ks (0, 0) = some (0, 0) := by
  induction ks using List.twoStepInduction with
  | nil | singleton => rfl
  | cons_cons k0 k1 rest ih _ =>
    simp only [List.forall_mem_cons] at hks
    obtain ⟨rfl, rfl, hrest⟩ := hks
    have hstep : subStep s 0 0 (0, 0) = some (0, 0) := by simp [subStep, feistelF_zero]
    simpa only [subSteps, hstep] using ih hrest

theorem iterations_zero {s : State} (hks : ∀ k ∈ s.ks.toList, k = 0) (n : Nat) :
    iterations s n (0, 0) = some (0, 0) := by
  induction n with
  | zero => rfl
  | succ n ih => simpa only [iterations, iteration, subSteps_zero s hks] using ih

/-- Settles O41. -/
theorem feistelZeroSchedule : Obligations.FeistelZeroSchedule := fun s hsafe hks => by
  refine exec_feistel_of_some hsafe (iterations_zero (fun k hk => ?_) _)
  obtain ⟨i, hi, rfl⟩ := List.mem_iff_getElem.mp hk
  exact hks i (by simpa using hi)

end Sys2Proof.Machine
end

section
/-!
PROOFS. FEISTEL against bit-level DES (43_feistel.md R236). The table-driven machine holds a half X as the E-layout word
of its salted expansion E'(X); on such words F is the DES round function, a sub-step two DES rounds, and an iteration
one encryption between its IP and the IP of the next.
-/
namespace Sys2Proof.Machine

/-! ## Expansions are linear -/

theorem desBit_xor {n : Nat} (v w : BitVec n) (k : Nat) : desBit (v ^^^ w) k = (desBit v k ^^ desBit w k) :=
  BitVec.getLsbD_xor

theorem permute_xor {n : Nat} (m : Nat) (t : List Nat) (v w : BitVec n) :
    permute m t (v ^^^ w) = permute m t v ^^^ permute m t w := by
  refine BitVec.eq_of_getLsbD_eq fun p hp => ?_
  simp only [permute, BitVec.getLsbD_xor, getLsbD_ofDesBits _ hp, desBit_xor]

theorem eWord_xor (d e : BitVec 48) : eWord (d ^^^ e) = eWord d ^^^ eWord e :=
  (eq_eWord_of_ePosition (isELayout_xor (isELayout_eWord d) (isELayout_eWord e)) fun i hi => by
    rw [BitVec.getLsbD_xor, getLsbD_eWord_ePosition d hi, getLsbD_eWord_ePosition e hi, desBit_xor]).symm

/-- A half as the machine holds it: the E-layout word of its salted expansion. -/
def expandedHalf (mask : Word) (half : BitVec 32) : DWord := eWord (permute 48 (saltedEsel mask) half)

theorem expandedHalf_xor (mask : Word) (x y : BitVec 32) :
    expandedHalf mask (x ^^^ y) = expandedHalf mask x ^^^ expandedHalf mask y := by
  rw [expandedHalf, permute_xor, eWord_xor]
  rfl

theorem expandedHalf_zero (mask : Word) : expandedHalf mask 0 = 0 := by
  have hzero : eWord 0 = 0 := by decide
  rw [expandedHalf, permute_zero, hzero]

/-- Both halves as the machine holds them. -/
def expandedHalves (mask : Word) (lr : BitVec 32 × BitVec 32) : DWord × DWord :=
  (expandedHalf mask lr.1, expandedHalf mask lr.2)

/-- SHUF1 takes the salt out again. -/
theorem shuf1_expandedHalf {c0 c1 : Byte} (h0 : inAlphabet c0) (h1 : inAlphabet c1) (half : BitVec 32) :
    shuf1 (expandedHalf (saltMask c0 c1) half) (saltMask c0 c1) = eWord (permute 48 esel half) := by
  rw [expandedHalf, ← shuf1_eWord_esel h0 h1, shuf1_self]

/-! ## The S-box layer as the XOR of its four pairs (R156) -/

/-- Box t's output fills the t-th nibble from the top. -/
theorem getLsbD_nibble (v : BitVec 4) {t p : Nat} (ht : t < 8) (hp : p < 32) :
    (v.setWidth 32 <<< (28 - 4 * t)).getLsbD p = (decide (7 - p / 4 = t) && v.getLsbD (p % 4)) := by
  rw [BitVec.getLsbD_shiftLeft, BitVec.getLsbD_setWidth]
  by_cases hbox : 7 - p / 4 = t
  · simp [hp, hbox, show ¬ p < 28 - 4 * t by omega, show p - (28 - 4 * t) = p % 4 by omega, show p % 4 < 32 by omega]
  · by_cases hbelow : p < 28 - 4 * t
    · simp [hbox, hbelow]
    · simp [hbox, BitVec.getLsbD_of_ge v (p - (28 - 4 * t)) (by omega)]

theorem getLsbD_sboxLayer (e : BitVec 48) {p : Nat} (hp : p < 32) :
    (sboxLayer e).getLsbD p =
      (sLookup (7 - p / 4) (e.extractLsb' (42 - 6 * (7 - p / 4)) 6)).getLsbD (p % 4) := by
  rw [Bool.eq_iff_iff, sboxLayer, getLsbD_foldl_or, List.any_eq_true]
  constructor
  · rintro ⟨t, ht, hbit⟩
    rw [getLsbD_nibble _ (List.mem_range.mp ht) hp, Bool.and_eq_true, decide_eq_true_eq] at hbit
    obtain ⟨rfl, hbit⟩ := hbit
    exact hbit
  · intro hbit
    have ht : 7 - p / 4 < 8 := by omega
    exact ⟨_, List.mem_range.mpr ht, by rw [getLsbD_nibble _ ht hp, decide_eq_true rfl, hbit]; rfl⟩

/-- The output word of pair sg on the 48-bit S-box input e. -/
def pairLayer (e : BitVec 48) (sg : Nat) : BitVec 32 :=
  pairOutput sg (e.extractLsb' (42 - 12 * sg) 6).toNat (e.extractLsb' (36 - 12 * sg) 6).toNat

theorem getLsbD_pairLayer (e : BitVec 48) {sg p : Nat} (hsg : sg < 4) (hp : p < 32) :
    (pairLayer e sg).getLsbD p = (decide (3 - p / 8 = sg) && (sboxLayer e).getLsbD p) := by
  rw [pairLayer, pairOutput, getLsbD_ofDesBits _ hp, getLsbD_sboxLayer e hp, BitVec.ofNat_toNat, BitVec.ofNat_toNat,
    BitVec.setWidth_eq, BitVec.setWidth_eq]
  by_cases hfirst : 7 - p / 4 = 2 * sg
  · rw [if_pos (by omega), decide_eq_true (by omega), hfirst, desBit, Bool.true_and,
      show 42 - 6 * (2 * sg) = 42 - 12 * sg by omega, show 4 - (32 - 1 - p - 8 * sg + 1) = p % 4 by omega]
  rw [if_neg (by omega)]
  by_cases hsecond : 7 - p / 4 = 2 * sg + 1
  · rw [if_pos (by omega), decide_eq_true (by omega), hsecond, desBit, Bool.true_and,
      show 42 - 6 * (2 * sg + 1) = 36 - 12 * sg by omega, show 4 - (32 - 1 - p - 8 * sg - 3) = p % 4 by omega]
  · rw [if_neg (by omega), decide_eq_false (by omega), Bool.false_and]

/-- Each bit of the layer comes from one pair, so the four words add up by XOR. -/
theorem sboxLayer_eq_xor (e : BitVec 48) :
    sboxLayer e = pairLayer e 0 ^^^ pairLayer e 1 ^^^ pairLayer e 2 ^^^ pairLayer e 3 := by
  refine BitVec.eq_of_getLsbD_eq fun p hp => ?_
  simp (disch := omega) only [BitVec.getLsbD_xor, getLsbD_pairLayer]
  have hpair : 3 - p / 8 < 4 := by omega
  generalize 3 - p / 8 = sg at hpair ⊢
  interval_cases sg <;> simp

/-! ## IP between two encryptions (R146, R232) -/

/-- FINAL_PERM takes every bit from 1 to 64. -/
theorem mem_finalPerm : ∀ k < 64, k + 1 ∈ finalPerm := by decide

/-- IP undoes FINAL_PERM. -/
theorem initialPerm_permute (block : BitVec 64) : initialPerm (permute 64 finalPerm block) = block := by
  refine BitVec.eq_of_getLsbD_eq fun p hp => ?_
  have hindex := List.idxOf_lt_length_iff.mpr (mem_finalPerm (64 - 1 - p) (by omega))
  have hentry : entry finalPerm (finalPerm.idxOf (64 - 1 - p + 1)) = 64 - 1 - p + 1 := by
    rw [entry, List.getD_eq_getElem _ _ hindex, List.getElem_idxOf]
  rw [initialPerm, getLsbD_ofDesBits _ hp, desBit_permute _ _ (show _ < 64 from hindex), hentry, desBit,
    show 64 - (64 - 1 - p + 1) = p by omega]

/-- The halves a DES encryption of the block starts from. -/
def blockHalves (block : BitVec 64) : BitVec 32 × BitVec 32 :=
  ((initialPerm block).extractLsb' 32 32, (initialPerm block).extractLsb' 0 32)

theorem blockHalves_zero : blockHalves 0 = (0, 0) := by decide

/-- After the sixteen rounds FINAL_PERM and the next IP cancel, and the exchange is left. -/
theorem blockHalves_desEncrypt (expansion : List Nat) (key block : BitVec 64) :
    blockHalves (desEncrypt expansion key block) =
      ((List.range 16).foldl (fun lr i => desRound expansion lr (desSubkey key i)) (blockHalves block)).swap := by
  rw [desEncrypt, blockHalves, initialPerm_permute]
  simp (disch := omega) only [BitVec.extractLsb'_append_eq_of_le, BitVec.extractLsb'_append_eq_of_add_le]
  exact Prod.ext BitVec.extractLsb'_eq_self BitVec.extractLsb'_eq_self

theorem iteratedBlock_eq_iterate (expansion : List Nat) (key : BitVec 64) (n : Nat) :
    iteratedBlock expansion key n = (desEncrypt expansion key)^[n] 0 := by
  induction n with
  | zero => rfl
  | succ n ih => rw [iteratedBlock, ih, Function.iterate_succ_apply']

/-- R183 for the whole schedule. -/
theorem scheduleOf_toList (key : Vector Byte 8) : (scheduleOf key).toList =
    ((List.range 16).map (desSubkey (desKey key))).map fun k => eWord k ||| keyMarker := by
  refine List.ext_getElem (by simp) fun i hi _ => ?_
  have hi : i < 16 := by simpa using hi
  simpa using scheduleOf_eq_eWord key hi

/-! ## F is the DES round function -/

/-- The six E bits of box t stand together in an E-layout word, clear of KEY_MARKER. -/
theorem extractLsb'_indexWord (e : BitVec 48) {t : Nat} (ht : t < 8) :
    (eWord e ^^^ keyMarker).extractLsb' (ePosition (6 * t + 6)) 6 = e.extractLsb' (42 - 6 * t) 6 := by
  have hplace : ∀ t < 8, ∀ p < 6, ePosition (6 * t + 6) + p = ePosition (6 * t + 5 - p + 1) ∧
      keyMarker.getLsbD (ePosition (6 * t + 6) + p) = false := by decide
  refine BitVec.eq_of_getLsbD_eq fun p hp => ?_
  obtain ⟨hposition, hmarker⟩ := hplace t ht p hp
  rw [BitVec.getLsbD_extractLsb', BitVec.getLsbD_extractLsb', BitVec.getLsbD_xor, hmarker, hposition,
    getLsbD_eWord_ePosition e (by omega), Bool.xor_false, desBit,
    show 48 - (6 * t + 5 - p + 1) = 42 - 6 * t + p by omega]

section
variable {s : State} {c0 c1 : Byte} (h0 : inAlphabet c0) (h1 : inAlphabet c1) (hmask : s.mask = saltMask c0 c1)
  (hbanks : BanksMatchMask s)
include h0 h1 hmask hbanks

/-- The entry that F reads for pair sg of the index word of e (R233). -/
theorem bankEntry_indexWord (e : BitVec 48) {sg : Nat} (hsg : sg < 4) :
    bankEntry s sg (64 * ((eWord e ^^^ keyMarker).extractLsb' (ePosition (12 * sg + 6)) 6).toNat +
        ((eWord e ^^^ keyMarker).extractLsb' (ePosition (12 * sg + 12)) 6).toNat) =
      expandedHalf s.mask (permute 32 perm32 (pairLayer e sg)) := by
  have hfirst := extractLsb'_indexWord e (t := 2 * sg) (by omega)
  have hsecond := extractLsb'_indexWord e (t := 2 * sg + 1) (by omega)
  rw [show 6 * (2 * sg) + 6 = 12 * sg + 6 by omega, show 42 - 6 * (2 * sg) = 42 - 12 * sg by omega] at hfirst
  rw [show 6 * (2 * sg + 1) + 6 = 12 * sg + 12 by omega, show 42 - 6 * (2 * sg + 1) = 36 - 12 * sg by omega] at hsecond
  rw [hfirst, hsecond]
  exact saltedBankClosedForm s c0 c1 h0 h1 hmask hbanks sg _ _ hsg (BitVec.isLt _) (BitVec.isLt _)

theorem feistelF_indexWord (e : BitVec 48) :
    feistelF s (eWord e ^^^ keyMarker) = some (expandedHalf s.mask (permute 32 perm32 (sboxLayer e))) := by
  have hentry := fun sg hsg => bankEntry_indexWord h0 h1 hmask hbanks e (sg := sg) hsg
  rw [indexWordSelectsBanks s _ (isELayout_xor_xor (isELayout_eWord e) keyMarker), sboxLayer_eq_xor]
  simp only [permute_xor, expandedHalf_xor, ← hentry 0 (by decide), ← hentry 1 (by decide), ← hentry 2 (by decide),
    ← hentry 3 (by decide)]
  rfl

/-- On a subkey and an expanded half F gives the expansion of the DES round function. -/
theorem feistelF_eq_desF (subkey : BitVec 48) (half : BitVec 32) :
    feistelF s ((eWord subkey ||| keyMarker) ^^^ expandedHalf s.mask half) =
      some (expandedHalf s.mask (desF (saltedEsel s.mask) subkey half)) := by
  have hindex : (eWord subkey ||| keyMarker) ^^^ expandedHalf s.mask half =
      eWord (permute 48 (saltedEsel s.mask) half ^^^ subkey) ^^^ keyMarker := by
    rw [eWord_or_keyMarker, eWord_xor, expandedHalf]
    ac_rfl
  rw [hindex, feistelF_indexWord h0 h1 hmask hbanks]
  rfl

/-! ## Sub-steps and iterations are DES rounds and encryptions (R231, R232) -/

theorem subStep_eq_desRounds (k0 k1 : BitVec 48) (lr : BitVec 32 × BitVec 32) :
    subStep s (eWord k0 ||| keyMarker) (eWord k1 ||| keyMarker) (expandedHalves s.mask lr) =
      some (expandedHalves s.mask (desRound (saltedEsel s.mask) (desRound (saltedEsel s.mask) lr k0) k1)) := by
  simp only [subStep, desRound, expandedHalves, feistelF_eq_desF h0 h1 hmask hbanks, ← expandedHalf_xor]

/-- Sub-steps on an even number of subkeys are as many rounds. -/
theorem subSteps_eq_desRounds {subkeys : List (BitVec 48)} (heven : subkeys.length % 2 = 0)
    (lr : BitVec 32 × BitVec 32) :
    subSteps s (subkeys.map fun k => eWord k ||| keyMarker) (expandedHalves s.mask lr) =
      some (expandedHalves s.mask (subkeys.foldl (desRound (saltedEsel s.mask)) lr)) := by
  induction subkeys using List.twoStepInduction generalizing lr with
  | nil => rfl
  | singleton k => simp at heven
  | cons_cons k0 k1 rest ih _ =>
    have hrest : rest.length % 2 = 0 := by
      rw [List.length_cons, List.length_cons] at heven
      omega
    simpa only [List.map_cons, subSteps, subStep_eq_desRounds h0 h1 hmask hbanks, List.foldl_cons] using ih hrest _

variable {key : Vector Byte 8} (hks : s.ks = scheduleOf key)
include hks

/-- One iteration takes the halves of IP of a block to those of IP of its encryption. -/
theorem iteration_eq_desEncrypt (block : BitVec 64) :
    iteration s (expandedHalves s.mask (blockHalves block)) =
      some (expandedHalves s.mask (blockHalves (desEncrypt (saltedEsel s.mask) (desKey key) block))) := by
  have hrounds := subSteps_eq_desRounds h0 h1 hmask hbanks (subkeys := (List.range 16).map (desSubkey (desKey key)))
    (by simp) (blockHalves block)
  rw [← scheduleOf_toList, ← hks, List.foldl_map] at hrounds
  rw [iteration, hrounds, blockHalves_desEncrypt]
  rfl

theorem iterations_eq_desEncrypt (n : Nat) (block : BitVec 64) :
    iterations s n (expandedHalves s.mask (blockHalves block)) =
      some (expandedHalves s.mask (blockHalves ((desEncrypt (saltedEsel s.mask) (desKey key))^[n] block))) := by
  induction n generalizing block with
  | zero => rfl
  | succ n ih =>
    rw [iterations, iteration_eq_desEncrypt h0 h1 hmask hbanks hks, Function.iterate_succ_apply]
    exact ih _

/-- R236, on the halves as the machine holds them. -/
theorem runFeistel_eq_iteratedBlock :
    runFeistel s = some (expandedHalves s.mask
      (blockHalves (iteratedBlock (saltedEsel s.mask) (desKey key) 25))) := by
  have hstart : expandedHalves s.mask (blockHalves 0) = (0, 0) := by
    rw [blockHalves_zero, expandedHalves, expandedHalf_zero]
  rw [runFeistel, ← hstart, iteratedBlock_eq_iterate]
  exact iterations_eq_desEncrypt h0 h1 hmask hbanks hks 25 0

end

/-- Settles O42: FEISTEL leaves the expanded halves of IP(B_25), and SHUF1 un-salts them. -/
theorem feistelClosedForm : Obligations.FeistelClosedForm := by
  intro s key c0 c1 hsafe h0 h1 hmask hbanks hks
  have hunsalt := shuf1_expandedHalf h0 h1
  rw [← hmask] at hunsalt
  exact ⟨_, _, exec_feistel_of_some hsafe (runFeistel_eq_iteratedBlock h0 h1 hmask hbanks hks), hunsalt _, hunsalt _⟩

end Sys2Proof.Machine
end

section
/-!
PROOFS. The sixteen groups (44_output.md R260, R261): the un-salt step is SHUF1, and group g of a half is the six
neighbouring positions at which an E-layout word holds E bits 6g+1 to 6g+6.
-/
namespace Sys2Proof.Machine

/-- R260's second sentence: the two quarter-words of the un-salt step are those of SHUF1(half, MASK). -/
theorem unsalt_eq_shuf1 (mask : Word) (half : DWord) :
    unsalt mask half = ((shuf1 half mask).extractLsb' 32 32, (shuf1 half mask).extractLsb' 0 32) := by
  simp only [unsalt, shuf1, BitVec.extractLsb'_xor, BitVec.extractLsb'_append_eq_left,
    BitVec.extractLsb'_append_eq_right]

/-- The six E bits 6g+1 to 6g+6 of a word, g in 0..7. -/
def eGroup (x : DWord) (g : Nat) : BitVec 6 := x.extractLsb' (ePosition (6 * g + 6)) 6

theorem desBit_eGroup (x : DWord) {g k : Nat} (hg : g < 8) (hk : 1 ≤ k) (hk' : k ≤ 6) :
    desBit (eGroup x g) k = x.getLsbD (ePosition (6 * g + k)) := by
  have hplace : ePosition (6 * g + 6) + (6 - k) = ePosition (6 * g + k) := by
    unfold ePosition
    split_ifs <;> omega
  rw [desBit, eGroup, BitVec.getLsbD_extractLsb', hplace, decide_eq_true (by omega), Bool.true_and]

/-- A group of a quarter-word after the shift by 3 is six bits of the half the quarter-word comes from. -/
theorem extractLsb'_quarter_shiftRight (x : DWord) {start lo : Nat} (hlo : lo + 9 ≤ 32) :
    ((x.extractLsb' start 32) >>> 3).extractLsb' lo 6 = x.extractLsb' (start + 3 + lo) 6 := by
  refine BitVec.eq_of_getLsbD_eq fun p hp => ?_
  rw [BitVec.getLsbD_extractLsb', BitVec.getLsbD_extractLsb', BitVec.getLsbD_ushiftRight, BitVec.getLsbD_extractLsb',
    decide_eq_true (show 3 + (lo + p) < 32 by omega), Bool.true_and,
    show start + (3 + (lo + p)) = start + 3 + lo + p by omega]

/-- R261's eight groups of a half, in order. -/
theorem sixBitGroups_eq_map_eGroup (x : DWord) :
    sixBitGroups (x.extractLsb' 32 32) ++ sixBitGroups (x.extractLsb' 0 32) = (List.range 8).map (eGroup x) := by
  simp (disch := decide) only [sixBitGroups, extractLsb'_quarter_shiftRight]
  rfl

theorem outputGroups_eq (mask : Word) (l r : DWord) :
    outputGroups mask l r =
      (List.range 8).map (eGroup (shuf1 l mask)) ++ (List.range 8).map (eGroup (shuf1 r mask)) := by
  rw [outputGroups, unsalt_eq_shuf1, unsalt_eq_shuf1, List.append_assoc, sixBitGroups_eq_map_eGroup,
    sixBitGroups_eq_map_eGroup]

theorem outputGroups_length (mask : Word) (l r : DWord) : (outputGroups mask l r).length = 16 := by
  simp [outputGroups_eq]

theorem outputGroups_getD_left (mask : Word) (l r : DWord) {g : Nat} (hg : g < 8) :
    (outputGroups mask l r).getD g 0 = eGroup (shuf1 l mask) g := by
  simp [outputGroups_eq, List.getElem?_append_left, hg]

theorem outputGroups_getD_right (mask : Word) (l r : DWord) {g : Nat} (hg : g < 8) :
    (outputGroups mask l r).getD (g + 8) 0 = eGroup (shuf1 r mask) g := by
  simp [outputGroups_eq, List.getElem?_append_right, hg]

/-- Settles O44 (the name `outputGroups` is the model's own). -/
theorem outputGroups_eBits : Obligations.OutputGroups := fun mask l r =>
  ⟨outputGroups_length mask l r, fun g hg k hk hk' => by
    rw [outputGroups_getD_left mask l r hg, outputGroups_getD_right mask l r hg]
    exact ⟨desBit_eGroup _ hg hk hk', desBit_eGroup _ hg hk hk'⟩⟩

end Sys2Proof.Machine
end

section
/-!
PROOFS. The final permutation (44_output.md R262, R266): DES bit i+1 of v1 ++ v2 is the E bit that EFP reads it from
(40_tables.md R154), and that E bit is a copy of the bit FINAL_PERM takes (E_INV, R153).
-/
namespace Sys2Proof.Machine

/-! ## EFP (R154) -/

/-- `v & LONGMASK[c+26]` (R154) is DES bit c+1 of the group. -/
theorem and_longMask_ne_zero (v : BitVec 6) {c : Nat} (hc : c < 6) :
    (BitVec.ofNat 32 v.toNat &&& longMask (c + 26) != 0) = desBit v (c + 1) := by
  revert v
  interval_cases c <;> decide

theorem getLsbD_longMask (i : Nat) {p : Nat} (hp : p < 32) : (longMask i).getLsbD p = decide (31 - i = p) :=
  getLsbD_one_shiftLeft hp

/-- EFP[g][v][o] holds those bits of output word o that are read from group g. -/
theorem getLsbD_efp {g o : Nat} (v : BitVec 6) (hg : g < 16) (ho : o < 2) {p : Nat} (hp : p < 32) :
    (efp g v o).getLsbD p = true ↔ ∃ i < 64, (efpSource i / 6 = g ∧ i / 32 = o) ∧
      desBit v (efpSource i % 6 + 1) = true ∧ 31 - i % 32 = p := by
  simp only [efp_eq v hg ho, efpEntry, efpBits, getLsbD_scatter, List.any_eq_true, List.mem_filter, List.mem_range,
    Bool.and_eq_true, decide_eq_true_eq, and_assoc, and_longMask_ne_zero v (Nat.mod_lt _ (by decide : 0 < 6)),
    getLsbD_longMask _ hp]

/-! ## The two output words (R262) -/

/-- R262's sixteen lookups. -/
theorem finalWord_eq_foldl {groups : List (BitVec 6)} (hlength : groups.length = 16) (o : Nat) :
    finalWord groups o = (List.range 16).foldl (fun v g => v ||| efp g (groups.getD g 0) o) 0 := by
  have hindexed : groups.zipIdx = (List.range 16).map fun g => (groups.getD g 0, g) :=
    List.ext_getElem (by simp [hlength]) fun g hg _ => by
      have hg : g < groups.length := by simpa using hg
      simp [hg]
  rw [finalWord, hindexed, List.foldl_map]

/-- Every output bit is read from one of the sixteen groups. -/
theorem efpSource_lt : ∀ i < 64, efpSource i < 96 := by decide

/-- Bit p of output word o is DES bit 32o + (32 - p) of v1 ++ v2. -/
theorem getLsbD_finalWord {groups : List (BitVec 6)} (hlength : groups.length = 16) {o p i : Nat} (ho : o < 2)
    (hp : p < 32) (hi : i = 32 * o + (31 - p)) :
    (finalWord groups o).getLsbD p = desBit (groups.getD (efpSource i / 6) 0) (efpSource i % 6 + 1) := by
  rw [Bool.eq_iff_iff, finalWord_eq_foldl hlength, getLsbD_foldl_or, List.any_eq_true]
  constructor
  · rintro ⟨g, hg, hlookup⟩
    obtain ⟨j, hj, ⟨rfl, hword⟩, hbit, hplace⟩ := (getLsbD_efp _ (List.mem_range.mp hg) ho hp).mp hlookup
    rwa [show i = j by omega]
  · intro hbit
    have hg : efpSource i / 6 < 16 := by have := efpSource_lt i (by omega); omega
    exact ⟨_, List.mem_range.mpr hg,
      (getLsbD_efp _ hg ho hp).mpr ⟨i, by omega, ⟨rfl, by omega⟩, hbit, by omega⟩⟩

/-- DES bit i+1 of v1 ++ v2 is the bit of the groups that EFP reads it from. -/
theorem desBit_finalBlock (mask : Word) (l r : DWord) {i : Nat} (hi : i < 64) :
    desBit (finalBlock mask l r) (i + 1) =
      desBit ((outputGroups mask l r).getD (efpSource i / 6) 0) (efpSource i % 6 + 1) := by
  have hlength := outputGroups_length mask l r
  rw [desBit, finalBlock, getLsbD_append32]
  split_ifs with hlow
  · exact getLsbD_finalWord hlength (by decide) hlow (by omega)
  · exact getLsbD_finalWord hlength (by decide) (by omega) (by omega)

/-! ## The closed form (R266) -/

/-- E bit c+1 of the 96-bit sequence, when both un-salted halves are expansions. -/
theorem desBit_outputGroups {mask : Word} {l r : DWord} {e1 e2 : BitVec 48} (hl : shuf1 l mask = eWord e1)
    (hr : shuf1 r mask = eWord e2) {c : Nat} (hc : c < 96) :
    desBit ((outputGroups mask l r).getD (c / 6) 0) (c % 6 + 1) =
      if c < 48 then desBit e1 (c + 1) else desBit e2 (c - 48 + 1) := by
  obtain ⟨-, hgroups⟩ := outputGroups_eBits mask l r
  split_ifs with hleft
  · obtain ⟨hbit, -⟩ := hgroups (c / 6) (by omega) (c % 6 + 1) (by omega) (by omega)
    rw [hbit, hl, show 6 * (c / 6) + (c % 6 + 1) = c + 1 by omega, getLsbD_eWord_ePosition e1 hleft]
  · obtain ⟨-, hbit⟩ := hgroups (c / 6 - 8) (by omega) (c % 6 + 1) (by omega) (by omega)
    rw [show c / 6 - 8 + 8 = c / 6 by omega] at hbit
    rw [hbit, hr, show 6 * (c / 6 - 8) + (c % 6 + 1) = c - 48 + 1 by omega, getLsbD_eWord_ePosition e2 (by omega)]

/-- E_INV (R153): the E bit read for output bit i+1 is a copy of the bit that FINAL_PERM takes, in its own half. -/
theorem efpSource_expands : ∀ i < 64,
    entry finalPerm i =
      if efpSource i < 48 then entry esel (efpSource i) else 32 + entry esel (efpSource i - 48) := by decide

/-- ESEL's entries are DES bits of a half. -/
theorem entry_esel_pos_le : ∀ c < 48, 1 ≤ entry esel c ∧ entry esel c ≤ 32 := by decide

theorem desBit_append_left (x1 x2 : BitVec 32) {k : Nat} (hk : k ≤ 32) (hk' : 1 ≤ k) :
    desBit (x1 ++ x2 : BitVec 64) k = desBit x1 k := by
  rw [desBit, getLsbD_append32, if_neg (by omega), desBit, show 64 - k - 32 = 32 - k by omega]

theorem desBit_append_right (x1 x2 : BitVec 32) {k : Nat} (hk : 1 ≤ k) :
    desBit (x1 ++ x2 : BitVec 64) (32 + k) = desBit x2 k := by
  rw [desBit, getLsbD_append32, if_pos (by omega), desBit, show 64 - (32 + k) = 32 - k by omega]

/-- Two vectors with the same DES bits are equal. -/
theorem eq_of_desBit_eq {n : Nat} {v w : BitVec n} (h : ∀ i < n, desBit v (i + 1) = desBit w (i + 1)) : v = w := by
  refine BitVec.eq_of_getLsbD_eq fun p hp => ?_
  simpa only [desBit, show n - (n - 1 - p + 1) = p by omega] using h (n - 1 - p) (by omega)

/-- R266's second sentence: v1 ++ v2 is FINAL_PERM of the recovered halves. -/
theorem finalBlock_of_expanded {mask : Word} {l r : DWord} {x1 x2 : BitVec 32}
    (hl : shuf1 l mask = eWord (permute 48 esel x1)) (hr : shuf1 r mask = eWord (permute 48 esel x2)) :
    finalBlock mask l r = permute 64 finalPerm (x1 ++ x2) := by
  refine eq_of_desBit_eq fun i hi => ?_
  have hsource := efpSource_lt i hi
  rw [desBit_finalBlock mask l r hi, desBit_outputGroups hl hr hsource, desBit_permute finalPerm _ hi,
    efpSource_expands i hi]
  split_ifs with hleft
  · obtain ⟨hpos, hle⟩ := entry_esel_pos_le _ hleft
    rw [desBit_permute esel x1 hleft, desBit_append_left x1 x2 hle hpos]
  · have hright : efpSource i - 48 < 48 := by omega
    rw [desBit_permute esel x2 hright, desBit_append_right x1 x2 (entry_esel_pos_le _ hright).1]

/-- FINAL_PERM undoes IP. -/
theorem permute_initialPerm (block : BitVec 64) : permute 64 finalPerm (initialPerm block) = block := by
  have hinverse : ∀ i < 64, entry finalPerm i - 1 < 64 ∧ entry finalPerm i = entry finalPerm i - 1 + 1 ∧
      finalPerm.idxOf (entry finalPerm i) = i := by decide
  refine eq_of_desBit_eq fun i hi => ?_
  obtain ⟨hlt, hpos, hindex⟩ := hinverse i hi
  rw [desBit_permute finalPerm _ hi, hpos, initialPerm, desBit_ofDesBits _ hlt, ← hpos, hindex]

/-- Settles O46: the block is FINAL_PERM of IP of itself. -/
theorem outputClosedForm : Obligations.OutputClosedForm := fun m l r =>
  ⟨fun _ _ => finalBlock_of_expanded, fun block hl hr => by
    rw [finalBlock_of_expanded hl hr, BitVec.extractLsb'_append_extractLsb', permute_initialPerm]⟩

end Sys2Proof.Machine
end

section
/-!
PROOFS. The radix-64 encoding and OUTENC (44_output.md R263, R265, R267).
-/
namespace Sys2Proof.Machine

/-! ## The 66-bit string S (R263) -/

/-- S, which R263 puts together by shifts, is v1 ++ v2 ++ 00. -/
theorem radixString_eq_append (v1 v2 : Word) :
    v1.setWidth 66 <<< 34 ||| v2.setWidth 66 <<< 2 = v1 ++ v2 ++ 0#2 := by
  refine BitVec.eq_of_getLsbD_eq fun p hp => ?_
  simp only [BitVec.getLsbD_or, BitVec.getLsbD_shiftLeft, BitVec.getLsbD_setWidth, BitVec.getLsbD_append]
  split_ifs with hpad hlow
  · simp [hpad, show p < 34 by omega]
  · simp [hpad, hp, show p < 34 by omega, show p - 2 < 66 by omega]
  · simp [hp, show ¬ p < 34 by omega, show p - 34 < 66 by omega, BitVec.getLsbD_of_ge v2 (p - 2) (by omega),
      show p - 2 - 32 = p - 34 by omega]

/-- Character i encodes group i of v1 ++ v2 ++ 00. -/
theorem outputChar_append (v1 v2 : Word) (i : Nat) :
    outputChar (v1 ++ v2) i = alpha ((v1 ++ v2 ++ 0#2).extractLsb' (60 - 6 * i) 6) := by
  rw [outputChar, BitVec.extractLsb'_append_eq_left, BitVec.extractLsb'_append_eq_right, radixString_eq_append]

/-- The group that spans the word boundary. -/
theorem extractLsb'_append_boundary (v1 v2 : Word) :
    (v1 ++ v2 : DWord).extractLsb' 28 6 = v1.extractLsb' 0 2 ++ v2.extractLsb' 28 4 := by
  rw [← BitVec.extractLsb'_append_extractLsb'_eq_extractLsb' (len₁ := 4) (len₂ := 2) (start₂ := 32) rfl,
    BitVec.extractLsb'_append_eq_of_le (by decide), BitVec.extractLsb'_append_eq_of_add_le (by decide)]

/-- Settles O45: OUT[7] spans the two words, OUT[12] ends in the two zero bits, and the others lie in one word. -/
theorem radixEncoding : Obligations.RadixEncoding := fun salt v1 v2 => by
  have hlast := outputChar_last (v1 ++ v2)
  simp (disch := decide) only [outputString, hlast, outputChar_append, Nat.reduceMul, Nat.reduceSub,
    extractLsb'_append_boundary, BitVec.extractLsb'_append_eq_of_le, BitVec.extractLsb'_append_eq_of_add_le]

/-- After the salt characters, the characters of the groups. -/
theorem outputString_getElem (salt : Vector Byte 2) (block : DWord) {k : Nat} (h : k < 13) (hk : 2 ≤ k) :
    (outputString salt block)[k] = outputChar block (k - 2) := by
  interval_cases k <;> rfl

theorem outputChar_zero (i : Nat) : outputChar 0 i = 0x2E := by
  simp [outputChar, alpha]

/-- Zero halves encode the zero block. -/
theorem finalBlock_zero (mask : Word) : finalBlock mask 0 0 = 0 := by
  have hzero : shuf1 0 mask = eWord (permute 48 esel (0 : BitVec 32)) := by
    have hword : eWord 0 = 0 := by decide
    rw [permute_zero, hword]
    simp [shuf1]
  rw [finalBlock_of_expanded hzero hzero]
  exact permute_zero 64 finalPerm

/-! ## OUTENC (R265, R267) -/

section
variable {s : State} (hsafe : s.fatal = false)
include hsafe

theorem exec_outenc_of_salted (hv : s.saltv = true) : exec .outenc s = .next (succeed (runOutputEncoder s)) := by
  refine congrArg Host.Outcome.next ?_
  rw [unlessHalted_of_safe _ hsafe, if_pos hv]

theorem exec_outenc_of_unsalted (hv : s.saltv = false) : exec .outenc s = .next (raise .shortSalt s) := by
  refine congrArg Host.Outcome.next ?_
  rw [unlessHalted_of_safe _ hsafe, if_neg (Bool.eq_false_iff.mp hv)]

end

/-- Settles O43: a second OUTENC encodes the same L, R, MASK and SALT. -/
theorem outencEffect : Obligations.OutencEffect := by
  refine fun s hsafe => ⟨fun hv => ⟨_, exec_outenc_of_salted hsafe hv, rfl, fun hl hr k h hk => ?_, ?_⟩,
    exec_outenc_of_unsalted hsafe⟩
  · simp only [succeed_out, runOutputEncoder_out]
    rw [outputString_getElem _ _ h hk, hl, hr, finalBlock_zero, outputChar_zero]
  · exact exec_outenc_of_salted (s := succeed (runOutputEncoder s)) hsafe hv

/-- Settles O47. -/
theorem outputShape : Obligations.OutputShape := by
  refine fun s hsafe hv => ⟨_, exec_outenc_of_salted hsafe hv, rfl, rfl, fun k h hk => ?_,
    ⟨_, outputChar_last _⟩, fun hsalt => (outputLegal_runOutputEncoder hsalt hv rfl).1⟩
  simp only [succeed_out, runOutputEncoder_out]
  rw [outputString_getElem _ _ h hk]
  exact inAlphabet_outputChar _ _

end Sys2Proof.Machine
end

section
/-!
PROOFS. NOP and the reads (45_digest_context.md R291, 46_readback.md R320 to R322), and how RDATA packs bytes.
-/
namespace Sys2Proof.Machine

/-- Eight bytes as RDATA holds them, the first one most significant. -/
def packBytes (b : Fin 8 → Byte) : DWord := b 0 ++ b 1 ++ b 2 ++ b 3 ++ b 4 ++ b 5 ++ b 6 ++ b 7

theorem extractLsb'_packBytes (b : Fin 8 → Byte) (k : Fin 8) : (packBytes b).extractLsb' (56 - 8 * k) 8 = b k := by
  fin_cases k <;>
    simp (disch := decide) only [packBytes, BitVec.extractLsb'_append_eq_of_le,
      BitVec.extractLsb'_append_eq_of_add_le] <;>
    exact BitVec.extractLsb'_eq_self

theorem kbufView_byte (s : State) {k : Nat} (h : k < 8) : (kbufView s).extractLsb' (56 - 8 * k) 8 = s.kbuf[k] :=
  extractLsb'_packBytes (fun k => s.kbuf[k]) ⟨k, h⟩

theorem out0View_byte (s : State) {k : Nat} (h : k < 8) : (out0View s).extractLsb' (56 - 8 * k) 8 = s.out[k] :=
  extractLsb'_packBytes (fun k => s.out[k]) ⟨k, h⟩

theorem out1View_byte (s : State) {k : Nat} (h : k < 5) : (out1View s).extractLsb' (56 - 8 * k) 8 = s.out[8 + k] := by
  interval_cases k <;>
    simp (disch := decide) only [out1View, BitVec.extractLsb'_append_eq_of_le,
      BitVec.extractLsb'_append_eq_of_add_le] <;>
    exact BitVec.extractLsb'_eq_self

theorem out1View_zeros (s : State) : (out1View s).extractLsb' 0 24 = 0 := by
  rw [out1View, BitVec.extractLsb'_append_eq_of_add_le (by decide)]
  rfl

theorem saltView_first (s : State) : (regView s .salt).extractLsb' 8 8 = s.salt[0] := by
  rw [regView, BitVec.extractLsb'_setWidth_of_le (by decide), BitVec.extractLsb'_append_eq_of_le (by decide)]
  exact BitVec.extractLsb'_eq_self

theorem saltView_second (s : State) : (regView s .salt).extractLsb' 0 8 = s.salt[1] := by
  rw [regView, BitVec.extractLsb'_setWidth_of_le (by decide), BitVec.extractLsb'_append_eq_of_add_le (by decide)]
  exact BitVec.extractLsb'_eq_self

theorem saltView_zeros (s : State) : (regView s .salt).extractLsb' 16 48 = 0 := by
  refine BitVec.eq_of_getLsbD_eq fun p hp => ?_
  rw [regView, BitVec.getLsbD_extractLsb', BitVec.getLsbD_setWidth, BitVec.getLsbD_of_ge _ _ (by omega)]
  simp

theorem exec_rdks_ofNat (s : State) {k : Nat} (h : k < 16) :
    exec (.rdks (BitVec.ofNat 4 k)) s = .next { s with rdata := s.ks[k], err := 0 } := by
  have hindex : (BitVec.ofNat 4 k).toNat = k := Nat.mod_eq_of_lt h
  have hsubkey : subkeyAt s (BitVec.ofNat 4 k) = s.ks[k] := by simp only [subkeyAt, hindex]
  rw [← hsubkey]
  rfl

/-- Settles O19. -/
theorem nopAndReadbackResults : Obligations.NopAndReadbackResults := fun s =>
  ⟨rfl, fun _ _ => rfl, fun _ => exec_rdks_ofNat s, rfl, rfl, rfl, rfl,
    ⟨_, rfl, saltView_first s, saltView_second s, saltView_zeros s⟩, ⟨_, rfl, fun _ => kbufView_byte s⟩,
    ⟨_, rfl, fun _ => out0View_byte s⟩, ⟨_, rfl, fun _ => out1View_byte s, out1View_zeros s⟩⟩

end Sys2Proof.Machine
end

section
/-!
PROOFS. RESET and UPDATE (45_digest_context.md R292, R293).
-/
namespace Sys2Proof.Machine

/-! ## RESET (R292) -/

/-- The reset state but for the banks, swapped back by the mask they carried, and the port. -/
def cleared (s : State) : State := { State.reset with bank := (unapplySalt (clearContext s)).bank, port := s.port }

theorem cleared_eq_succeed {s : State} (hsafe : s.fatal = false) :
    cleared s = succeed (unapplySalt (clearContext s)) := by
  apply state_ext <;> simp [cleared, hsafe]

theorem exec_reset_of_safe {s : State} (hsafe : s.fatal = false) : exec .reset s = .next (cleared s) := by
  rw [cleared_eq_succeed hsafe]
  exact congrArg Host.Outcome.next (unlessHalted_of_safe _ hsafe)

theorem bankEntry_cleared (s : State) (b i : Nat) : bankEntry (cleared s) b i = shuf1 (bankEntry s b i) s.mask := by
  have hcells := bankEntry_congr (s := unapplySalt (clearContext s)) (t := cleared s) rfl (unapplySalt_mask _).symm b i
  rw [hcells, bankEntry_unapplySalt]
  rfl

/-- Without a salt RESET writes no entry. -/
theorem cleared_bank_of_unsalted {s : State} (hmask : s.mask = 0) : (cleared s).bank = s.bank := by
  have hmemo : ¬ (clearContext s).mask ≠ 0 := not_not.mpr hmask
  rw [cleared, unapplySalt, if_neg hmemo]
  rfl

theorem cleared_cleared (s : State) : cleared (cleared s) = cleared s := by
  calc cleared (cleared s)
    _ = { State.reset with bank := (cleared (cleared s)).bank, port := s.port } := rfl
    _ = { State.reset with bank := (cleared s).bank, port := s.port } := by rw [cleared_bank_of_unsalted rfl]

/-- Settles O21: the second RESET finds MASK = 0. -/
theorem resetEffect : Obligations.ResetEffect := fun s hsafe => by
  refine ⟨cleared s, exec_reset_of_safe hsafe, rfl, fun b i _ _ => bankEntry_cleared s b i,
    cleared_bank_of_unsalted, ?_⟩
  rw [exec_reset_of_safe rfl, cleared_cleared]

theorem banksMatchMask_cleared {s : State} (h : BanksMatchMask s) : BanksMatchMask (cleared s) := fun b i hb hi => by
  rw [bankEntry_cleared, h b i hb hi, shuf1_self]
  exact (shuf1_zero _).symm

theorem cellsCanonical_cleared {s : State} (h : CellsCanonical s) : CellsCanonical (cleared s) := by
  have hcells := memoryWf_unapplySalt (s := clearContext s) h
  rwa [unapplySalt_mask] at hcells

/-- The un-swapped banks are BASE, which a canonical list at MASK = 0 has no cell for. -/
theorem cleared_of_banksMatchMask {s : State} (hbanks : BanksMatchMask s) (hcells : CellsCanonical s) :
    cleared s = withPort s.port State.reset := by
  have hnil := bank_eq_nil_of_banksMatchMask (banksMatchMask_cleared hbanks) (cellsCanonical_cleared hcells)
  calc cleared s
    _ = { State.reset with bank := (cleared s).bank, port := s.port } := rfl
    _ = { State.reset with bank := [], port := s.port } := by rw [hnil]

/-- Settles O22. -/
theorem resetReachesHardwareResetState : Obligations.ResetReachesHardwareResetState := fun _ hsafe hbanks hcells => by
  rw [exec_reset_of_safe hsafe, cleared_of_banksMatchMask hbanks hcells]
  rfl

/-! ## UPDATE (R293) -/

section
variable {s : State} (b : Byte) (hsafe : s.fatal = false)
include hsafe

theorem exec_update_of_open (hopen : s.fin = false) : exec (.update b) s = .next (succeed (appendKeyByte s b)) := by
  refine congrArg Host.Outcome.next ?_
  rw [unlessHalted_of_safe _ hsafe, if_neg (Bool.eq_false_iff.mp hopen)]

theorem exec_update_of_finalized (hfin : s.fin = true) : exec (.update b) s = .next (raise .sequenceError s) := by
  refine congrArg Host.Outcome.next ?_
  rw [unlessHalted_of_safe _ hsafe, if_pos hfin]

end

/-- Settles O23. -/
theorem updateEffect : Obligations.UpdateEffect := fun s b hsafe => by
  refine ⟨fun hopen hroom => ?_, fun hopen hfull => ?_, exec_update_of_finalized b hsafe⟩
  · rw [exec_update_of_open b hsafe hopen, appendKeyByte_of_room b hroom]
    rfl
  · rw [exec_update_of_open b hsafe hopen, appendKeyByte_of_full b hfull]
    rfl

end Sys2Proof.Machine
end

section
/-!
PROOFS. DIGEST (45_digest_context.md R294): it completes from every open context with a validated salt and INV-BANK, and
leaves what its four units leave as commands.
-/
namespace Sys2Proof.Machine

/-! ## Its ends -/

section
variable {s : State} (hsafe : s.fatal = false)
include hsafe

theorem exec_digest_of_finalized (hfin : s.fin = true) : exec .digest s = .next (raise .sequenceError s) := by
  refine congrArg Host.Outcome.next ?_
  rw [unlessHalted_of_safe _ hsafe, if_pos hfin]

variable (hopen : s.fin = false)
include hopen

theorem exec_digest_of_unsalted (hv : s.saltv = false) : exec .digest s = .next (raise .shortSalt s) := by
  refine congrArg Host.Outcome.next ?_
  rw [unlessHalted_of_safe _ hsafe, if_neg (Bool.eq_false_iff.mp hopen), if_neg (Bool.eq_false_iff.mp hv)]

theorem exec_digest_of_salted (hv : s.saltv = true) : exec .digest s = .next (runDigest s) := by
  refine congrArg Host.Outcome.next ?_
  rw [unlessHalted_of_safe _ hsafe, if_neg (Bool.eq_false_iff.mp hopen), if_pos hv]

end

/-- The FeistelEngine finds the schedule and the banks that the first two units wrote (43_feistel.md R237). -/
theorem runFeistel_prepareDigest_completes {s : State} (hbanks : BanksMatchMask s) :
    ∃ lr, runFeistel (prepareDigest s) = some lr :=
  runFeistel_completes (banksMatchMask_prepareDigest hbanks) (scheduleLegal_of_scheduleOf (prepareDigest_ks s))

/-! ## What it leaves -/

/-- The state of a completed DIGEST whose FeistelEngine answers `lr`. -/
def digested (s : State) (lr : DWord × DWord) : State :=
  succeed (finalize (runOutputEncoder (setHalves (prepareDigest s) lr)))

theorem exec_digest_of_some {s : State} {lr : DWord × DWord} (hsafe : s.fatal = false) (hopen : s.fin = false)
    (hv : s.saltv = true) (hrun : runFeistel (prepareDigest s) = some lr) :
    exec .digest s = .next (digested s lr) := by
  rw [exec_digest_of_salted hsafe hopen hv, runDigest_of_some hrun]
  rfl

theorem digested_eq (s : State) (lr : DWord × DWord) :
    digested s lr = { s with
      ks := scheduleOf s.kbuf, bank := (digested s lr).bank, mask := saltMask s.salt[0] s.salt[1], l := lr.1, r := lr.2,
      out := outputString s.salt (finalBlock (digested s lr).mask lr.1 lr.2), outv := true, fin := true,
      err := 0 } := by
  apply state_ext <;> simp [digested, prepareDigest_ks, prepareDigest_mask]

theorem digested_out (s : State) (lr : DWord × DWord) :
    (digested s lr).out = outputString s.salt (finalBlock (saltMask s.salt[0] s.salt[1]) lr.1 lr.2) := by
  simp [digested, prepareDigest_mask]

theorem banksMatchMask_digested {s : State} (lr : DWord × DWord) (hbanks : BanksMatchMask s) :
    BanksMatchMask (digested s lr) :=
  banksMatchMask_congr (by simp [digested]) (by simp [digested]) (banksMatchMask_prepareDigest hbanks)

/-- RunFeistel reads only the schedule and the banks, which the units after it leave. -/
theorem runFeistel_digested (s : State) (lr : DWord × DWord) :
    runFeistel (digested s lr) = runFeistel (prepareDigest s) :=
  runFeistel_congr (bankEntry_congr (by simp [digested]) (by simp [digested])) (by simp [digested])

/-- Settles O25. -/
theorem digestEffect : Obligations.DigestEffect := by
  intro s hsafe hopen hv _ hbanks
  obtain ⟨lr, hrun⟩ := runFeistel_prepareDigest_completes hbanks
  exact ⟨digested s lr, exec_digest_of_some hsafe hopen hv hrun, digested_eq s lr, banksMatchMask_digested lr hbanks,
    (runFeistel_digested s lr).trans hrun⟩

end Sys2Proof.Machine
end

section
/-!
PROOFS. Sequences of command words (30_encoding.md R109): a run goes command by command.
-/
namespace Sys2Proof.Machine

theorem command_encode {i : Instr} {s t : State} (hwf : i.wellFormed = true) (h : exec i s = .next t) :
    command s (encode i) = t :=
  command_of_next ((runWord_of_ok s (decodeEncode i hwf)).trans h)

theorem runCommands_encodeAll_cons {i : Instr} {is : List Instr} {s t : State} (hwf : i.wellFormed = true)
    (h : exec i s = .next t) : runCommands (encodeAll (i :: is)) s = runCommands (encodeAll is) t := by
  rw [encodeAll, List.map_cons, runCommands, List.foldl_cons, command_encode hwf h]
  rfl

theorem runCommands_encodeAll_append (is js : List Instr) (s : State) :
    runCommands (encodeAll (is ++ js)) s = runCommands (encodeAll js) (runCommands (encodeAll is) s) := by
  rw [encodeAll, List.map_append, runCommands, List.foldl_append]
  rfl

theorem runCommands_withPort (ws : List Word) (p : List PortEvent) (s : State) :
    runCommands ws (withPort p s) = withPort p (runCommands ws s) := by
  induction ws generalizing s with
  | nil => rfl
  | cons w ws ih =>
    rw [runCommands, List.foldl_cons, command_of_next (runWord_withPort w p s)]
    exact ih (command s w)

theorem applySalt_succeed (s : State) : applySalt (succeed s) = succeed (applySalt s) := by
  rw [applySalt, applySalt, apply_ite succeed]
  rfl

/-- Settles O26: as commands the units differ from DIGEST in the ERR = 0 between them, which OUTENC's overwrites, and in
FIN. -/
theorem digestRunsUnits : Obligations.DigestRunsUnits := by
  intro s hsafe hopen hv _ hbanks
  obtain ⟨lr, hrun⟩ := runFeistel_prepareDigest_completes hbanks
  refine ⟨_, exec_digest_of_some hsafe hopen hv hrun, rfl, rfl, ?_⟩
  have hkeyed : exec .ksched s = .next (succeed (runKeyScheduler s)) := exec_ksched_of_safe hsafe
  have hsalted : exec .saltperm (succeed (runKeyScheduler s)) = .next (succeed (prepareDigest s)) := by
    rw [exec_saltperm_of_salted (by simpa using hsafe) (by simpa using hv), applySalt_succeed]
    rfl
  have hrun' : runFeistel (succeed (prepareDigest s)) = some lr :=
    (runFeistel_congr (bankEntry_congr (by simp) (by simp)) (by simp)).trans hrun
  have hhalves := exec_feistel_of_some (s := succeed (prepareDigest s)) (by simpa using hsafe) hrun'
  have hencoded := exec_outenc_of_salted (s := succeed (setHalves (succeed (prepareDigest s)) lr))
    (by simpa using hsafe) (by simpa using hv)
  rw [stephashCommands, runCommands_encodeAll_cons rfl hkeyed, runCommands_encodeAll_cons rfl hsalted,
    runCommands_encodeAll_cons rfl hhalves, runCommands_encodeAll_cons rfl hencoded]
  apply state_ext <;> simp [digested, hopen, encodeAll, runCommands]

end Sys2Proof.Machine
end

section
/-!
PROOFS. The transitions of the digest context (45_digest_context.md R290).
-/
namespace Sys2Proof.Machine

/-! ## DSTATE -/

theorem dstate_eq_finalized_iff {s : State} : dstate s = .finalized ↔ s.fin = true := by
  unfold dstate
  split_ifs <;> simp_all

theorem open_of_dstate_ne {s : State} (h : dstate s ≠ .finalized) : s.fin = false :=
  Bool.eq_false_iff.mpr (mt dstate_eq_finalized_iff.mpr h)

theorem dstate_congr {s t : State} (hfin : t.fin = s.fin) (hcount : t.kcount = s.kcount) : dstate t = dstate s := by
  rw [dstate, dstate, hfin, hcount]

/-- The context of an open buffer with a byte in it, the ninth byte's included. -/
theorem dstate_appendKeyByte {s : State} (b : Byte) (hopen : s.fin = false) :
    dstate (succeed (appendKeyByte s b)) = .accumulating := by
  have hcount : (appendKeyByte s b).kcount ≠ 0#4 := by
    by_cases hroom : s.kcount.toNat < 8
    · rw [appendKeyByte_of_room b hroom]
      bv_omega
    · rw [appendKeyByte_of_full b (Nat.not_lt.mp hroom)]
      bv_omega
  simp [dstate, hopen, hcount]

/-- The units of DIGEST end in the violation or in a completed output. -/
theorem runDigest_finalizes {s : State} (h3 : (runDigest s).err ≠ 3) :
    dstate (runDigest s) = .finalized ∧ (runDigest s).outv = true ∧ (runDigest s).err = 0 := by
  cases hrun : runFeistel (prepareDigest s) with
  | some lr =>
    rw [runDigest_of_some hrun]
    exact ⟨dstate_eq_finalized_iff.mpr rfl, rfl, rfl⟩
  | none =>
    rw [runDigest_of_none hrun] at h3
    exact absurd rfl h3

/-! ## The commands that R290 does not list -/

/-- No command but RESET, UPDATE and DIGEST has KCOUNT or FIN in its row of the write matrix. -/
theorem context_not_written {i : Instr} (hreset : i ≠ .reset) (hdigest : i ≠ .digest)
    (hupdate : ∀ b, i ≠ .update b) : .kcount ∉ writesOf i ∧ .fin ∉ writesOf i := by
  cases i with
  | reset => exact absurd rfl hreset
  | digest => exact absurd rfl hdigest
  | update b => exact absurd rfl (hupdate b)
  | _ => simp [writesOf]

/-- A piece outside the command's row is kept, whatever the command's end; the violation writes OUTV and FATAL too. -/
theorem samePiece_of_not_written {i : Instr} {s t : State} {p : Piece} (h : exec i s = .next t) (hp : p ∉ writesOf i)
    (houtv : p ≠ .outv) (hfatal : p ≠ .fatal) : samePiece s t p := by
  have hends := ends_of_exec h
  by_cases h0 : t.err = 0
  · exact hends.sameBut_of_success h0 p hp
  · by_cases h3 : t.err = 3
    · refine hends.sameBut_of_violation h3 p (not_mem_violationWrites houtv hfatal ?_)
      rintro rfl
      refine ⟨?_, ?_, ?_⟩ <;> rintro rfl <;> exact hp (by decide)
    · exact hends.sameBut_of_error h0 h3 p List.not_mem_nil

theorem dstate_of_not_listed {i : Instr} {s t : State} (h : exec i s = .next t) (hreset : i ≠ .reset)
    (hdigest : i ≠ .digest) (hupdate : ∀ b, i ≠ .update b) : dstate t = dstate s := by
  obtain ⟨hcount, hfin⟩ := context_not_written hreset hdigest hupdate
  exact dstate_congr (samePiece_of_not_written h hfin (by decide) (by decide))
    (samePiece_of_not_written h hcount (by decide) (by decide))

/-- While FATAL = 1 the three listed commands are Halted, and the others keep DSTATE in any state. -/
theorem dstate_of_fatal {i : Instr} {s t : State} (h : exec i s = .next t) (hfatal : s.fatal = true) :
    dstate t = dstate s := by
  cases i with
  | reset | digest | update b =>
    rw [exec_of_fatal hfatal rfl rfl] at h
    cases h
    rfl
  | _ => exact dstate_of_not_listed h (by simp) (by simp) (by simp)

/-! ## The transitions (R290) -/

/-- Settles O24. -/
theorem digestContextTransitions : Obligations.DigestContextTransitions := by
  intro i s t h
  refine ⟨?_, ?_, ?_, ?_, ?_, dstate_of_not_listed h, dstate_of_fatal h⟩
  · rintro b rfl hsafe hstate
    have hopen := open_of_dstate_ne hstate
    rw [exec_update_of_open b hsafe hopen] at h
    cases h
    refine ⟨dstate_appendKeyByte b hopen, rfl, fun k hk hcount => ?_⟩
    subst hcount
    simp [appendKeyByte_of_room b hk, keyByte]
  · rintro rfl hsafe hstate hv h3
    have hopen := open_of_dstate_ne hstate
    rw [exec_digest_of_salted hsafe hopen hv] at h
    cases h
    exact runDigest_finalizes h3
  · rintro rfl hsafe hstate hv
    have hopen := open_of_dstate_ne hstate
    rw [exec_digest_of_unsalted hsafe hopen hv] at h
    cases h
    exact ⟨rfl, rfl⟩
  · rintro hsafe hstate hi
    have hfin : s.fin = true := dstate_eq_finalized_iff.mp hstate
    have hexec : exec i s = .next (raise .sequenceError s) := by
      obtain rfl | ⟨b, rfl⟩ := hi
      · exact exec_digest_of_finalized hsafe hfin
      · exact exec_update_of_finalized b hsafe hfin
    rw [hexec] at h
    cases h
    exact ⟨hstate, rfl⟩
  · rintro rfl hsafe
    rw [exec_reset_of_safe hsafe] at h
    cases h
    rfl

end Sys2Proof.Machine
end

section
/-!
PROOFS. The hash sequence up to DIGEST (45_digest_context.md R295): RESET, the UPDATEs of the password, SETSALT.
-/
namespace Sys2Proof.Machine

/-! ## The key of a password -/

theorem getElem_passwordKey (password : List Byte) {k : Nat} (hk : k < 8) :
    (passwordKey password)[k] = password.getD k 0 &&& 0x7F := by
  simp [passwordKey]

theorem passwordKey_append_of_room {bytes : List Byte} (b : Byte) (hroom : bytes.length < 8) :
    passwordKey (bytes ++ [b]) = (passwordKey bytes).set bytes.length (keyByte b) hroom := by
  refine Vector.ext fun k hk => ?_
  rw [Vector.getElem_set, getElem_passwordKey _ hk, getElem_passwordKey _ hk]
  obtain hlt | rfl | hgt := Nat.lt_trichotomy k bytes.length
  · rw [if_neg hlt.ne', List.getD_append _ _ _ _ hlt]
  · simp [keyByte]
  · rw [if_neg hgt.ne, List.getD_append_right _ _ _ _ hgt.le, List.getD_eq_default bytes _ hgt.le,
      List.getD_eq_default [b] _ (by rw [List.length_singleton]; omega)]

theorem passwordKey_append_of_full {bytes : List Byte} (b : Byte) (hfull : 8 ≤ bytes.length) :
    passwordKey (bytes ++ [b]) = passwordKey bytes := by
  refine Vector.ext fun k hk => ?_
  rw [getElem_passwordKey _ hk, getElem_passwordKey _ hk, List.getD_append _ _ _ _ (hk.trans_le hfull)]

/-! ## UPDATE per byte -/

/-- `s` with the key bytes of a password buffered and ERR = 0. -/
def keyed (password : List Byte) (s : State) : State :=
  { s with kbuf := passwordKey password, kcount := BitVec.ofNat 4 (min password.length 8), err := 0 }

theorem toNat_keyed_kcount (bytes : List Byte) (s : State) : (keyed bytes s).kcount.toNat = min bytes.length 8 := by
  simp only [keyed, BitVec.toNat_ofNat]
  omega

theorem succeed_appendKeyByte_keyed (bytes : List Byte) (b : Byte) (s : State) :
    succeed (appendKeyByte (keyed bytes s) b) = keyed (bytes ++ [b]) s := by
  have hcount := toNat_keyed_kcount bytes s
  by_cases hroom : bytes.length < 8
  · have hindex : (keyed bytes s).kcount.toNat = bytes.length := by omega
    have hnext : (keyed bytes s).kcount + 1 = BitVec.ofNat 4 (min (bytes ++ [b]).length 8) := by
      refine BitVec.eq_of_toNat_eq ?_
      rw [BitVec.toNat_add, hindex, BitVec.toNat_ofNat, List.length_append, List.length_singleton,
        Nat.min_eq_left hroom]
      rfl
    have hkbuf : (keyed bytes s).kbuf.set bytes.length (keyByte b) = passwordKey (bytes ++ [b]) :=
      (passwordKey_append_of_room b hroom).symm
    rw [appendKeyByte_of_room b (by omega)]
    simp only [hindex, hnext, hkbuf]
    rfl
  · have hlength : min (bytes ++ [b]).length 8 = min bytes.length 8 := by
      rw [List.length_append]
      omega
    rw [appendKeyByte_of_full b (by omega), keyed, keyed, passwordKey_append_of_full b (Nat.not_lt.mp hroom), hlength]
    rfl

theorem runCommands_keyCommands {s : State} (hsafe : s.fatal = false) (hopen : s.fin = false)
    (bytes more : List Byte) :
    runCommands (encodeAll (keyCommands more)) (keyed bytes s) = keyed (bytes ++ more) s := by
  induction more generalizing bytes with
  | nil => rw [List.append_nil]; rfl
  | cons b more ih =>
    have hupdate : exec (.update b) (keyed bytes s) = .next (keyed (bytes ++ [b]) s) := by
      rw [exec_update_of_open (s := keyed bytes s) b hsafe hopen, succeed_appendKeyByte_keyed]
    rw [keyCommands, List.map_cons, runCommands_encodeAll_cons rfl hupdate, List.append_cons bytes b more]
    exact ih (bytes ++ [b])

/-! ## RESET and the password -/

theorem runCommands_reset_keyCommands {s : State} (hsafe : s.fatal = false) (password : List Byte) :
    runCommands (encodeAll ([.reset] ++ keyCommands password)) s = keyed password (cleared s) := by
  rw [List.singleton_append, runCommands_encodeAll_cons rfl (exec_reset_of_safe hsafe)]
  exact runCommands_keyCommands (s := cleared s) rfl rfl [] password

/-! ## SETSALT and DIGEST -/

/-- R295's sequence is its last two commands after the password's. -/
theorem runHash_of_safe {s : State} (hsafe : s.fatal = false) (password salt : List Byte) :
    runHash password salt s =
      runCommands (encodeAll [saltCommand salt, .digest]) (keyed password (cleared s)) := by
  rw [runHash, hashCommands, runCommands_encodeAll_append, runCommands_reset_keyCommands hsafe]

/-- The sequence up to SETSALT ends as SETSALT does after RESET and the password. -/
theorem runCommands_to_setsalt {s t : State} (hsafe : s.fatal = false) {password salt : List Byte}
    (h : exec (saltCommand salt) (keyed password (cleared s)) = .next t) :
    runCommands (encodeAll ([.reset] ++ keyCommands password ++ [saltCommand salt])) s = t := by
  rw [runCommands_encodeAll_append, runCommands_reset_keyCommands hsafe,
    runCommands_encodeAll_cons (saltCommand_wellFormed salt) h]
  rfl

theorem exec_saltCommand_short {salt : List Byte} (hlength : salt.length < 2) {s : State} (hsafe : s.fatal = false) :
    exec (saltCommand salt) s = .next (raise .shortSalt s) := by
  refine exec_setsalt_short hsafe ?_ _ _
  rw [Nat.min_eq_left hlength.le]
  interval_cases salt.length <;> decide

theorem saltCommand_two (c0 c1 : Byte) (more : List Byte) : saltCommand (c0 :: c1 :: more) = .setsalt 2 c0 c1 := by
  have hcount : min (c0 :: c1 :: more).length 2 = 2 := Nat.min_eq_right (by simp)
  rw [saltCommand, hcount]
  rfl

/-- A refused salt leaves SALTV = 0, so DIGEST refuses it again, with OUT as RESET left it. -/
theorem runHash_of_refused {s : State} (hsafe : s.fatal = false) {password salt : List Byte} {e : ErrorCode}
    (h : exec (saltCommand salt) (keyed password (cleared s)) = .next (raise e (keyed password (cleared s)))) :
    runHash password salt s = raise .shortSalt (keyed password (cleared s)) := by
  have hdigest := exec_digest_of_unsalted (s := raise e (keyed password (cleared s))) rfl rfl rfl
  rw [runHash_of_safe hsafe, runCommands_encodeAll_cons (saltCommand_wellFormed salt) h,
    runCommands_encodeAll_cons rfl hdigest]
  rfl

/-- What the sequence leaves before DIGEST when the salt is valid. -/
def hashPrepared (password : List Byte) (c0 c1 : Byte) (s : State) : State :=
  succeed (storeSalt (keyed password (cleared s)) c0 c1)

theorem banksMatchMask_hashPrepared (password : List Byte) (c0 c1 : Byte) {s : State} (h : BanksMatchMask s) :
    BanksMatchMask (hashPrepared password c0 c1 s) :=
  banksMatchMask_congr (s := cleared s) rfl rfl (banksMatchMask_cleared h)

theorem runHash_of_valid {s : State} (hsafe : s.fatal = false) (password : List Byte) {c0 c1 : Byte}
    (more : List Byte) (h0 : inAlphabet c0) (h1 : inAlphabet c1) :
    runHash password (c0 :: c1 :: more) s = runDigest (hashPrepared password c0 c1 s) := by
  have hsetsalt : exec (.setsalt 2 c0 c1) (keyed password (cleared s)) = .next (hashPrepared password c0 c1 s) :=
    exec_setsalt_valid rfl h0 h1
  have hdigest := exec_digest_of_salted (s := hashPrepared password c0 c1 s) rfl rfl rfl
  rw [runHash_of_safe hsafe, saltCommand_two, runCommands_encodeAll_cons rfl hsetsalt,
    runCommands_encodeAll_cons rfl hdigest]
  rfl

end Sys2Proof.Machine
end

section
/-!
PROOFS. The hash contract (45_digest_context.md R295): what DIGEST leaves in OUT is the closed form.
-/
namespace Sys2Proof.Machine

/-- The halves of R236, encoded under the mask they were made with, are those of the block (44_output.md R266). -/
theorem finalBlock_expandedHalves {c0 c1 : Byte} (h0 : inAlphabet c0) (h1 : inAlphabet c1) (block : BitVec 64) :
    finalBlock (saltMask c0 c1) (expandedHalves (saltMask c0 c1) (blockHalves block)).1
      (expandedHalves (saltMask c0 c1) (blockHalves block)).2 = block :=
  (outputClosedForm _ _ _).2 block (shuf1_expandedHalf h0 h1 _) (shuf1_expandedHalf h0 h1 _)

/-- R236 and R266 for DIGEST: it completes, and OUT is the encoded block B_25 of the buffered key and the
stored salt. -/
theorem runDigest_closedForm {s : State} (hbanks : BanksMatchMask s) (h0 : inAlphabet s.salt[0])
    (h1 : inAlphabet s.salt[1]) : ∃ lr, runDigest s = digested s lr ∧
      (digested s lr).out = outputString s.salt
        (iteratedBlock (saltedEsel (saltMask s.salt[0] s.salt[1])) (desKey s.kbuf) Config.iterations) := by
  have hrun := runFeistel_eq_iteratedBlock h0 h1 (prepareDigest_mask s) (banksMatchMask_prepareDigest hbanks)
    (prepareDigest_ks s)
  rw [prepareDigest_mask] at hrun
  refine ⟨_, runDigest_of_some hrun, ?_⟩
  rw [digested_out, finalBlock_expandedHalves h0 h1]

theorem observations_rdoutCommands (s : State) :
    observations (encodeAll rdoutCommands) s = [(0, out0View s), (0, out1View s)] := by
  have hfirst : command s (encode (.rdreg .out0)) = succeed (setRdata s (out0View s)) := command_encode rfl rfl
  have hsecond : command (succeed (setRdata s (out0View s))) (encode (.rdreg .out1)) =
      succeed (setRdata (succeed (setRdata s (out0View s))) (out1View s)) := command_encode rfl rfl
  simp only [rdoutCommands, encodeAll, List.map_cons, List.map_nil, observations, hfirst, hsecond]
  rfl

/-- Settles O48. -/
theorem hashContract : Obligations.HashContract := by
  refine fun password salt s hsafe hbanks => ⟨?_, ?_⟩
  · rintro c0 c1 more rfl h0 h1
    obtain ⟨lr, hdigest, hout⟩ := runDigest_closedForm (banksMatchMask_hashPrepared password c0 c1 hbanks) h0 h1
    rw [runHash_of_valid hsafe password more h0 h1, hdigest]
    exact ⟨_, rfl, rfl, rfl, rfl, hout, observations_rdoutCommands _⟩
  · rintro u rfl
    refine ⟨fun hlength => ?_, ?_⟩
    · have hrefused := exec_saltCommand_short (s := keyed password (cleared s)) hlength rfl
      rw [runCommands_to_setsalt hsafe hrefused, runHash_of_refused hsafe hrefused]
      exact ⟨rfl, rfl, rfl⟩
    · rintro c0 c1 more rfl hinvalid
      have hrefused := exec_setsalt_invalid (s := keyed password (cleared s)) rfl hinvalid
      rw [← saltCommand_two c0 c1 more] at hrefused
      rw [runCommands_to_setsalt hsafe hrefused, runHash_of_refused hsafe hrefused]
      exact ⟨rfl, rfl, rfl⟩

end Sys2Proof.Machine
end

section
/-!
PROOFS. What the hash does not depend on (45_digest_context.md R297): the state before RESET, bit 7 of the password's
bytes and every byte after the eighth.
-/
namespace Sys2Proof.Machine

/-! ## The state before (R297 a) -/

/-- From the hardware-reset state on, the port alone tells two runs apart. -/
theorem runHash_of_banksMatchMask {s : State} (password salt : List Byte) (hsafe : s.fatal = false)
    (hbanks : BanksMatchMask s) (hcells : CellsCanonical s) :
    runHash password salt s =
      withPort s.port (runCommands (encodeAll [saltCommand salt, .digest]) (keyed password State.reset)) := by
  rw [runHash_of_safe hsafe, cleared_of_banksMatchMask hbanks hcells, ← runCommands_withPort]
  rfl

/-- Settles O49. -/
theorem hashIgnoresEarlierState : Obligations.HashIgnoresEarlierState := by
  intro password salt s u hs hu hsbanks hubanks hscells hucells
  rw [runHash_of_banksMatchMask password salt hs hsbanks hscells,
    runHash_of_banksMatchMask password salt hu hubanks hucells]
  rfl

/-! ## The password (R297 b, c) -/

theorem passwordKey_congr {p q : List Byte} (h : ∀ k, k < 8 → p.getD k 0 &&& 0x7F = q.getD k 0 &&& 0x7F) :
    passwordKey p = passwordKey q := by
  refine Vector.ext fun k hk => ?_
  rw [getElem_passwordKey p hk, getElem_passwordKey q hk, h k hk]

/-- DIGEST's OUT and ERR rest on KBUF, SALT, MASK, the banks and the OUT before it. -/
theorem runDigest_congr {s t : State} (hkbuf : t.kbuf = s.kbuf) (hsalt : t.salt = s.salt) (hmask : t.mask = s.mask)
    (hbank : t.bank = s.bank) (hout : t.out = s.out) :
    (runDigest t).out = (runDigest s).out ∧ (runDigest t).err = (runDigest s).err := by
  have hentry : ∀ b i, bankEntry (prepareDigest t) b i = bankEntry (prepareDigest s) b i := fun b i => by
    rw [bankEntry_prepareDigest, bankEntry_prepareDigest, bankEntry_congr hbank hmask, hmask, hsalt]
  have hrun : runFeistel (prepareDigest t) = runFeistel (prepareDigest s) :=
    runFeistel_congr hentry (by rw [prepareDigest_ks, prepareDigest_ks, hkbuf])
  cases h : runFeistel (prepareDigest s) with
  | some lr =>
    rw [runDigest_of_some h, runDigest_of_some (hrun.trans h)]
    simp [prepareDigest_mask, hsalt]
  | none =>
    rw [runDigest_of_none h, runDigest_of_none (hrun.trans h)]
    simp [hout]

/-- A salt is valid, or SETSALT refuses it in every state with FATAL = 0. -/
theorem saltCommand_cases (salt : List Byte) :
    (∃ c0 c1 more, salt = c0 :: c1 :: more ∧ inAlphabet c0 ∧ inAlphabet c1) ∨
      ∃ e, ∀ s : State, s.fatal = false → exec (saltCommand salt) s = .next (raise e s) := by
  match salt with
  | [] | [_] => exact .inr ⟨_, fun s => exec_saltCommand_short (by simp)⟩
  | c0 :: c1 :: more =>
    by_cases hvalid : inAlphabet c0 ∧ inAlphabet c1
    · exact .inl ⟨c0, c1, more, rfl, hvalid.1, hvalid.2⟩
    · rw [saltCommand_two]
      exact .inr ⟨_, fun s hsafe => exec_setsalt_invalid hsafe hvalid⟩

/-- While FATAL = 1 commands that FATAL stops leave a Halted state as it is. -/
theorem runCommands_of_halted {is : List Instr} (hwf : ∀ i ∈ is, i.wellFormed = true)
    (hstopped : ∀ i ∈ is, acceptedWhileFatal i = false) {s : State} (hfatal : s.fatal = true) :
    runCommands (encodeAll is) (raise .halted s) = raise .halted s := by
  induction is with
  | nil => rfl
  | cons i is ih =>
    obtain ⟨hwf, hwfs⟩ := List.forall_mem_cons.mp hwf
    obtain ⟨hstopped, hstoppeds⟩ := List.forall_mem_cons.mp hstopped
    rw [runCommands_encodeAll_cons hwf (exec_of_fatal (s := raise .halted s) hfatal hwf hstopped)]
    exact ih hwfs hstoppeds

theorem hashCommands_stopped (password salt : List Byte) :
    ∀ i ∈ hashCommands password salt, acceptedWhileFatal i = false := by
  simp [hashCommands, keyCommands, saltCommand, List.forall_mem_append, -List.mem_append, acceptedWhileFatal]

theorem runHash_of_fatal {s : State} (hfatal : s.fatal = true) (password salt : List Byte) :
    runHash password salt s = raise .halted s := by
  have hwf := List.all_eq_true.mp (hashCommands_wellFormed password salt)
  have hstopped := hashCommands_stopped password salt
  have hreset : exec .reset s = .next (raise .halted s) := exec_of_fatal hfatal rfl rfl
  rw [runHash, hashCommands, List.append_assoc, List.singleton_append, runCommands_encodeAll_cons rfl hreset]
  exact runCommands_of_halted (List.forall_mem_cons.mp hwf).2 (List.forall_mem_cons.mp hstopped).2 hfatal

/-- Settles O50. -/
theorem hashReadsEightSevenBitBytes : Obligations.HashReadsEightSevenBitBytes := by
  intro p q salt s h
  cases hfatal : s.fatal
  · obtain ⟨c0, c1, more, rfl, h0, h1⟩ | ⟨e, hrefused⟩ := saltCommand_cases salt
    · rw [runHash_of_valid hfatal p more h0 h1, runHash_of_valid hfatal q more h0 h1]
      exact runDigest_congr (passwordKey_congr h) rfl rfl rfl rfl
    · rw [runHash_of_refused hfatal (hrefused _ rfl), runHash_of_refused hfatal (hrefused _ rfl)]
      exact ⟨rfl, rfl⟩
  · rw [runHash_of_fatal hfatal, runHash_of_fatal hfatal]
    exact ⟨rfl, rfl⟩

end Sys2Proof.Machine
end

section
/-!
PROOFS. The errors that stand before a command runs (60_exceptions.md R350 items 2 to 5): one case per command and
cause, and in each the command has no effect but ERR.
-/
namespace Sys2Proof.Machine

/-- The command `i` is refused with the error: a row of R341, with what R350 puts before it excluded. -/
inductive Refused (s : State) : Instr → ErrorCode → Prop where
  | halted {i : Instr} (fatal : s.fatal = true) (stopped : acceptedWhileFatal i = false) : Refused s i .halted
  | updateFinalized (b : Byte) (safe : s.fatal = false) (finalized : s.fin = true) :
      Refused s (.update b) .sequenceError
  | digestFinalized (safe : s.fatal = false) (finalized : s.fin = true) : Refused s .digest .sequenceError
  | setsaltShort (n : BitVec 2) (c0 c1 : Byte) (safe : s.fatal = false) (short : n < 2) :
      Refused s (.setsalt n c0 c1) .shortSalt
  | saltpermUnsalted (safe : s.fatal = false) (unsalted : s.saltv = false) : Refused s .saltperm .shortSalt
  | outencUnsalted (safe : s.fatal = false) (unsalted : s.saltv = false) : Refused s .outenc .shortSalt
  | digestUnsalted (safe : s.fatal = false) (unfinalized : s.fin = false) (unsalted : s.saltv = false) :
      Refused s .digest .shortSalt
  | setsaltInvalid (n : BitVec 2) (c0 c1 : Byte) (safe : s.fatal = false) (count : ¬ n < 2)
      (invalid : ¬ (inAlphabet c0 ∧ inAlphabet c1)) : Refused s (.setsalt n c0 c1) .invalidSalt

theorem invalidSaltHolds_setsalt {n : BitVec 2} {c0 c1 : Byte} (h : invalidSaltHolds (.setsalt n c0 c1) = true) :
    ¬ (inAlphabet c0 ∧ inAlphabet c1) := by
  rintro ⟨h0, h1⟩
  simp only [invalidSaltHolds, Bool.or_eq_true, Option.isNone_iff_eq_none] at h
  exact h.elim h0 h1

/-- A command with an error condition of items 3 to 5 is one that FATAL stops, so with Halted excluded FATAL is 0. -/
theorem refused_of_firstError {s : State} {i : Instr} {e : ErrorCode} (h : firstError s i = some e) :
    Refused s i e := by
  unfold firstError at h
  split_ifs at h with hhalted hseq hshort hinvalid <;> obtain rfl := Option.some.inj h
  · rw [Bool.and_eq_true, Bool.not_eq_true'] at hhalted
    exact .halted hhalted.1 hhalted.2
  all_goals
    have hsafe : acceptedWhileFatal i = false → s.fatal = false := fun hi => by simpa [hi] using hhalted
  · cases i with
    | update b => exact .updateFinalized b (hsafe rfl) hseq
    | digest => exact .digestFinalized (hsafe rfl) hseq
    | _ => cases hseq
  · cases i with
    | setsalt n c0 c1 => exact .setsaltShort n c0 c1 (hsafe rfl) (of_decide_eq_true hshort)
    | saltperm => exact .saltpermUnsalted (hsafe rfl) (by simpa [shortSaltHolds] using hshort)
    | outenc => exact .outencUnsalted (hsafe rfl) (by simpa [shortSaltHolds] using hshort)
    | digest =>
      exact .digestUnsalted (hsafe rfl) (Bool.eq_false_of_not_eq_true hseq) (by simpa [shortSaltHolds] using hshort)
    | _ => cases hshort
  · cases i with
    | setsalt n c0 c1 =>
      exact .setsaltInvalid n c0 c1 (hsafe rfl) (by simpa [shortSaltHolds] using hshort)
        (invalidSaltHolds_setsalt hinvalid)
    | _ => cases hinvalid

/-- N = 3 is no legal word, so a count that is not short is 2. -/
theorem setsalt_count_eq_two {n : BitVec 2} {c0 c1 : Byte} (hwf : (Instr.setsalt n c0 c1).wellFormed = true)
    (h : ¬ n < 2) : n = 2 := by
  have hthree : n ≠ 3 := by simpa [Instr.wellFormed] using hwf
  clear hwf
  revert n
  decide

/-- A refused command has no effect but ERR. -/
theorem Refused.exec_eq {s : State} {i : Instr} {e : ErrorCode} (h : Refused s i e) (hwf : i.wellFormed = true) :
    exec i s = .next (raise e s) := by
  cases h with
  | halted hfatal hstopped => exact exec_of_fatal hfatal hwf hstopped
  | updateFinalized b hsafe hfin => exact exec_update_of_finalized b hsafe hfin
  | digestFinalized hsafe hfin => exact exec_digest_of_finalized hsafe hfin
  | setsaltShort n c0 c1 hsafe hshort => exact exec_setsalt_short hsafe hshort c0 c1
  | saltpermUnsalted hsafe hv => exact exec_saltperm_of_unsalted hsafe hv
  | outencUnsalted hsafe hv => exact exec_outenc_of_unsalted hsafe hv
  | digestUnsalted hsafe hopen hv => exact exec_digest_of_unsalted hsafe hopen hv
  | setsaltInvalid n c0 c1 hsafe hcount hinvalid =>
    obtain rfl := setsalt_count_eq_two hwf hcount
    exact exec_setsalt_invalid hsafe hinvalid

/-- Only the commands that run the FeistelEngine meet the violation. -/
theorem Violates.feistel_or_digest {s u : State} {i : Instr} (h : Violates s i u) : i = .feistel ∨ i = .digest := by
  cases h with
  | feistel => exact .inl rfl
  | digest => exact .inr rfl

/-- Settles O14: the first error condition refuses the command, and with none it completes or meets the violation. -/
theorem errorPriority : Obligations.ErrorPriority := by
  refine fun w s => ⟨fun h => (illegalWordsExactly w).1 h s, fun i hdecode => ⟨fun e he => ?_, fun hnone => ?_⟩⟩
  · rw [runWord_of_ok s hdecode]
    exact (refused_of_firstError he).exec_eq (wellFormed_of_decode hdecode)
  · obtain ⟨t, ht, hends⟩ := exec_ends i s
    refine ⟨t, (runWord_of_ok s hdecode).trans ht, ?_⟩
    cases hends with
    | illegal count => exact absurd (wellFormed_of_decode hdecode) (Bool.eq_false_iff.mp count)
    | refused e why => exact absurd (why.symm.trans hnone) (Option.some_ne_none e)
    | completed => exact .inl rfl
    | violated _ u fault => exact .inr ⟨rfl, fault.feistel_or_digest⟩

/-- Settles O17. -/
theorem sequenceErrorWhenFinalized : Obligations.SequenceErrorWhenFinalized := fun _ hsafe hfin =>
  ⟨fun b => exec_update_of_finalized b hsafe hfin, exec_digest_of_finalized hsafe hfin⟩

/-- Settles O15: the check of FATAL comes before a command's meaning, and NOP and the reads have none. -/
theorem haltedCommands : Obligations.HaltedCommands := fun s hfatal =>
  ⟨fun _ hwf hstopped => exec_of_fatal hfatal hwf hstopped, fun w h => (illegalWordsExactly w).1 h s, rfl,
    fun _ _ => rfl, fun _ => rfl, fun _ => rfl⟩

end Sys2Proof.Machine
end

section
/-!
PROOFS. The result codes (60_exceptions.md R341): every word leaves one of the seven, and only for its row's cause.
-/
namespace Sys2Proof.Machine

theorem ErrorCode.code_injective {e e' : ErrorCode} : e.code = e'.code → e = e' := by
  cases e <;> cases e' <;> decide

theorem ErrorCode.code_le_six (e : ErrorCode) : e.code ≤ 6 := by cases e <;> decide

/-- R341's rows: the word and the cause that each code is raised by. -/
def RaisedBy (w : Word) (s : State) : ErrorCode → Prop
  | .ok => True
  | .invalidSalt => ∃ c0 c1, decode w = .ok (.setsalt 2 c0 c1) ∧ ¬ (inAlphabet c0 ∧ inAlphabet c1)
  | .shortSalt => (∃ n c0 c1, decode w = .ok (.setsalt n c0 c1) ∧ n < 2) ∨
      (s.saltv = false ∧ (decode w = .ok .saltperm ∨ decode w = .ok .outenc ∨ decode w = .ok .digest))
  | .tableOffsetInvariantViolation => (decode w = .ok .feistel ∧ runFeistel s = none) ∨
      (decode w = .ok .digest ∧ runFeistel (prepareDigest s) = none)
  | .illegalCommand => illegalWord w
  | .sequenceError => s.fin = true ∧ ((∃ b, decode w = .ok (.update b)) ∨ decode w = .ok .digest)
  | .halted => s.fatal = true ∧ ∃ i, decode w = .ok i ∧ acceptedWhileFatal i = false

theorem Refused.raisedBy {w : Word} {s : State} {i : Instr} {e : ErrorCode} (h : Refused s i e)
    (hdecode : decode w = .ok i) : RaisedBy w s e := by
  cases h with
  | halted hfatal hstopped => exact ⟨hfatal, i, hdecode, hstopped⟩
  | updateFinalized b _ hfin => exact ⟨hfin, .inl ⟨b, hdecode⟩⟩
  | digestFinalized _ hfin => exact ⟨hfin, .inr hdecode⟩
  | setsaltShort n c0 c1 _ hshort => exact .inl ⟨n, c0, c1, hdecode, hshort⟩
  | saltpermUnsalted _ hv => exact .inr ⟨hv, .inl hdecode⟩
  | outencUnsalted _ hv => exact .inr ⟨hv, .inr (.inl hdecode)⟩
  | digestUnsalted _ _ hv => exact .inr ⟨hv, .inr (.inr hdecode)⟩
  | setsaltInvalid n c0 c1 _ hcount hinvalid =>
    obtain rfl := setsalt_count_eq_two (wellFormed_of_decode hdecode) hcount
    exact ⟨c0, c1, hdecode, hinvalid⟩

theorem Violates.raisedBy {w : Word} {s u : State} {i : Instr} (h : Violates s i u) (hdecode : decode w = .ok i) :
    RaisedBy w s .tableOffsetInvariantViolation := by
  cases h with
  | feistel run => exact .inl ⟨hdecode, run⟩
  | digest _ run => exact .inr ⟨hdecode, run⟩

theorem Ends.raisedBy {w : Word} {s t : State} {i : Instr} (h : Ends s i t) (hdecode : decode w = .ok i) :
    ∃ e, t.err = e.code ∧ RaisedBy w s e := by
  cases h with
  | illegal count => exact absurd (wellFormed_of_decode hdecode) (Bool.eq_false_iff.mp count)
  | refused e why => exact ⟨e, rfl, (refused_of_firstError why).raisedBy hdecode⟩
  | completed => exact ⟨.ok, rfl, trivial⟩
  | violated _ u fault => exact ⟨_, rfl, fault.raisedBy hdecode⟩

theorem runWord_raisedBy (w : Word) (s : State) :
    ∃ t e, runWord w s = .next t ∧ t.err = e.code ∧ RaisedBy w s e := by
  cases hdecode : decode w with
  | ok i =>
    obtain ⟨t, ht, hends⟩ := exec_ends i s
    obtain ⟨e, herr, hcause⟩ := hends.raisedBy hdecode
    exact ⟨t, e, (runWord_of_ok s hdecode).trans ht, herr, hcause⟩
  | error e =>
    exact ⟨_, .illegalCommand, runWord_of_error s hdecode, rfl, illegalWord_iff_decode_error.mpr ⟨e, hdecode⟩⟩

/-- Settles O11: a code names its error, so the cause of the code left is the cause of its row. -/
theorem errorCodesRaisedBy : Obligations.ErrorCodesRaisedBy := by
  intro w s
  obtain ⟨t, e, ht, herr, hraised⟩ := runWord_raisedBy w s
  have hcause : ∀ e' : ErrorCode, t.err = e'.code → RaisedBy w s e' := fun e' h =>
    ErrorCode.code_injective (herr.symm.trans h) ▸ hraised
  refine ⟨t, ht, herr ▸ e.code_le_six, hcause .invalidSalt, hcause .shortSalt, hcause .tableOffsetInvariantViolation,
    ⟨hcause .illegalCommand, fun hillegal => ?_⟩, hcause .sequenceError, hcause .halted⟩
  cases ht.symm.trans ((illegalWordsExactly w).1 hillegal s)
  rfl

end Sys2Proof.Machine
end

section
/-!
PROOFS. Precise errors (60_exceptions.md R348) and the effects of TableOffsetInvariantViolation (R344).
-/
namespace Sys2Proof.Machine

/-- Settles O12: an error is raised on the state before the command, the violation on the one its units left. -/
theorem preciseErrors : Obligations.PreciseErrors := by
  intro w s t h h0
  obtain ⟨i, hdecode, hends⟩ | rfl := runWord_cases h
  · cases hends with
    | illegal => exact ⟨fun _ => rfl, fun h3 => by cases h3⟩
    | refused e why => exact ⟨fun _ => rfl, fun h3 => absurd h3 (firstError_code why).2⟩
    | completed => exact absurd rfl h0
    | violated _ u fault =>
      refine ⟨fun h3 => absurd rfl h3, fun _ => ?_⟩
      cases fault with
      | feistel => exact .inl ⟨hdecode, rfl⟩
      | digest => exact .inr ⟨hdecode, rfl⟩
  · exact ⟨fun _ => rfl, fun h3 => by cases h3⟩

theorem memRead_eq_none_iff {s : State} {off : Nat} : memRead s off = none ↔ 0x20000 ≤ off ∨ off % 8 ≠ 0 := by
  rw [memRead_eq, ite_eq_right_iff, ← Nat.not_lt, ← not_and_or]
  simp

theorem exec_feistel_of_none {s : State} (hsafe : s.fatal = false) (h : runFeistel s = none) :
    exec .feistel s = .next (raiseFatal s) := by
  refine congrArg Host.Outcome.next ?_
  rw [unlessHalted_of_safe _ hsafe, h]

theorem exec_digest_of_none {s : State} (hsafe : s.fatal = false) (hopen : s.fin = false) (hv : s.saltv = true)
    (h : runFeistel (prepareDigest s) = none) : exec .digest s = .next (raiseFatal (prepareDigest s)) := by
  rw [exec_digest_of_salted hsafe hopen hv, runDigest_of_none h]

/-- Settles O13. -/
theorem violationEffect : Obligations.ViolationEffect :=
  ⟨fun _ _ => memRead_eq_none_iff, fun _ => exec_feistel_of_none, fun _ => exec_digest_of_none⟩

end Sys2Proof.Machine
end

section
/-!
PROOFS. The platform (60_exceptions.md R360): a step always answers a next state, so an engine's step rewrites its own
place in the list of engines and no other.
-/
namespace Sys2Proof.Machine

/-- The state one step leaves. -/
def stepped (s : State) : State :=
  match step s with
  | .next t => t
  | .fault _ => s
  | .refused _ => s

/-- No step stops with a fault or a refusal (60_exceptions.md R340). -/
theorem exists_step_eq_next (s : State) : ∃ t, step s = .next t := by
  rcases step_cases s with ⟨-, h⟩ | ⟨_, -, h⟩ | ⟨_, rest, i, -, -, h⟩ | ⟨_, _, _, -, -, h⟩
  · exact ⟨_, h⟩
  · exact ⟨_, h⟩
  · obtain ⟨t, ht, -⟩ := exec_ends i { s with port := rest }
    exact ⟨t, h.trans ht⟩
  · exact ⟨_, h⟩

theorem step_eq_next_stepped (s : State) : step s = .next (stepped s) := by
  obtain ⟨t, ht⟩ := exists_step_eq_next s
  simp only [stepped, ht]

theorem platformStep_eq (p : Platform) (k : Nat) :
    platformStep p k = .next { engines := p.engines.modify k stepped } := by
  rw [List.modify_eq_set_getElem?]
  cases h : p.engines[k]? with
  | none => simp [platformStep, h]
  | some s => simp [platformStep, h, step_eq_next_stepped s]

/-- The next platform has the engines of the stepped list. -/
theorem engines_of_platformStep {p q : Platform} {k : Nat} (h : platformStep p k = .next q) :
    q.engines = p.engines.modify k stepped := by
  cases h.symm.trans (platformStep_eq p k)
  rfl

theorem runSchedule_pair (p : Platform) (j k : Nat) :
    runSchedule [j, k] p = .next { engines := (p.engines.modify j stepped).modify k stepped } := by
  simp only [runSchedule, platformStep_eq]

/-- Settles O58: changes at two places of a list do not meet, and may be exchanged. -/
theorem enginesIndependent : Obligations.EnginesIndependent := by
  refine ⟨fun p q k h j hj => ?_, fun p k ev j hj => ?_, fun p q p' q' k hsame h h' => ?_, fun p j k hjk => ?_,
    List.length_replicate, Nat.le_add_left 1 _, fun s hs => ?_⟩
  · rw [engines_of_platformStep h, List.getElem?_modify_ne _ _ hj.symm]
  · exact List.getElem?_modify_ne _ _ hj.symm
  · rw [engines_of_platformStep h, engines_of_platformStep h', List.getElem?_modify_eq, List.getElem?_modify_eq, hsame]
  · rw [runSchedule_pair, runSchedule_pair, List.modify_modify_ne _ _ _ hjk]
  · obtain rfl := List.eq_of_mem_replicate hs
    exact resetState

end Sys2Proof.Machine
end

section
/-!
PROOFS. The reset input (70_reset_and_hazards.md R380): the state it leaves is the reset state with the port kept.
-/
namespace Sys2Proof.Machine

/-- The table of R49 says nothing of the port. -/
theorem atReset_withPort (p : List PortEvent) {s : State} (h : AtReset s) : AtReset (withPort p s) := h

/-- Settles O2. -/
theorem hardwareResetStep : Obligations.HardwareResetStep := fun _ rest hport =>
  ⟨withPort rest State.reset, step_of_hardwareReset hport, atReset_withPort rest resetState, rfl⟩

end Sys2Proof.Machine
end

section
/-!
PROOFS. The harmless orders (70_reset_and_hazards.md R391): what DIGEST overwrites, so that the commands before it that
write no more than that leave its result, and the commands before it that may be exchanged.
-/
namespace Sys2Proof.Machine

/-! ## DIGEST overwrites ERR -/

section
variable (e : ErrorCode) (s : State)

theorem applySalt_raise : applySalt (raise e s) = raise e (applySalt s) := by
  rw [applySalt, applySalt, apply_ite (raise e)]
  rfl

theorem prepareDigest_raise : prepareDigest (raise e s) = raise e (prepareDigest s) :=
  applySalt_raise e (runKeyScheduler s)

theorem runDigest_raise : runDigest (raise e s) = runDigest s := by
  have hrun : runFeistel (prepareDigest (raise e s)) = runFeistel (prepareDigest s) := by
    rw [prepareDigest_raise]
    exact runFeistel_congr (fun _ _ => rfl) rfl
  cases h : runFeistel (prepareDigest s) with
  | some lr => rw [runDigest_of_some h, runDigest_of_some (hrun.trans h), prepareDigest_raise]; rfl
  | none => rw [runDigest_of_none h, runDigest_of_none (hrun.trans h), prepareDigest_raise]; rfl

/-- Whatever its end, and in every state. -/
theorem exec_digest_raise : exec .digest (raise e s) = exec .digest s := by
  refine congrArg Host.Outcome.next ?_
  rw [runDigest_raise]
  rfl

theorem runCommands_digest_raise :
    runCommands (encodeAll [.digest]) (raise e s) = runCommands (encodeAll [.digest]) s := by
  obtain ⟨t, ht, -⟩ := exec_ends .digest s
  rw [runCommands_encodeAll_cons rfl ht, runCommands_encodeAll_cons rfl ((exec_digest_raise e s).trans ht)]

theorem runCommands_digest_succeed :
    runCommands (encodeAll [.digest]) (succeed s) = runCommands (encodeAll [.digest]) s :=
  runCommands_digest_raise .ok s

end

/-! ## UPDATE and SETSALT in either order -/

/-- `s` with another key buffer. -/
def withKeyBuffer (kbuf : Vector Byte 8) (kcount : BitVec 4) (s : State) : State := { s with kbuf, kcount }

/-- UPDATE's effect may be exchanged with any other that leaves the key buffer alone. -/
theorem appendKeyByte_comm {f : State → State} {s : State}
    (hf : ∀ kbuf kcount, f (withKeyBuffer kbuf kcount s) = withKeyBuffer kbuf kcount (f s)) (b : Byte) :
    appendKeyByte (f s) b = f (appendKeyByte s b) := by
  have hkbuf : (f s).kbuf = s.kbuf := (congrArg State.kbuf (hf s.kbuf s.kcount) :)
  have hkcount : (f s).kcount = s.kcount := (congrArg State.kcount (hf s.kbuf s.kcount) :)
  by_cases hroom : s.kcount.toNat < 8
  · rw [appendKeyByte_of_room b hroom, appendKeyByte_of_room b (hkcount ▸ hroom)]
    simp only [hkbuf, hkcount]
    exact (hf _ _).symm
  · have hfull := Nat.not_lt.mp hroom
    rw [appendKeyByte_of_full b hfull, appendKeyByte_of_full b (hkcount ▸ hfull)]

theorem appendKeyByte_storeSalt (s : State) (b c0 c1 : Byte) :
    appendKeyByte (storeSalt s c0 c1) b = storeSalt (appendKeyByte s b) c0 c1 :=
  appendKeyByte_comm (f := fun s => storeSalt s c0 c1) (fun _ _ => rfl) b

theorem appendKeyByte_raise (e : ErrorCode) (s : State) (b : Byte) :
    appendKeyByte (raise e s) b = raise e (appendKeyByte s b) :=
  appendKeyByte_comm (fun _ _ => rfl) b

/-- A SETSALT with two characters stores the salt or only raises an error, alike in every state with FATAL = 0. -/
theorem setsalt_two_cases (c0 c1 : Byte) :
    (∀ s : State, s.fatal = false → exec (.setsalt 2 c0 c1) s = .next (succeed (storeSalt s c0 c1))) ∨
      ∀ s : State, s.fatal = false → exec (.setsalt 2 c0 c1) s = .next (raise .invalidSalt s) := by
  by_cases hvalid : inAlphabet c0 ∧ inAlphabet c1
  · exact .inl fun s hsafe => exec_setsalt_valid hsafe hvalid.1 hvalid.2
  · exact .inr fun s hsafe => exec_setsalt_invalid hsafe hvalid

/-- Before the DIGEST the two orders differ in ERR at most: an invalid salt leaves ERR = 1 only as the last command. -/
theorem runCommands_update_setsalt_comm {s : State} (hsafe : s.fatal = false) (hopen : s.fin = false)
    (b c0 c1 : Byte) :
    runCommands (encodeAll [.update b, .setsalt 2 c0 c1, .digest]) s =
      runCommands (encodeAll [.setsalt 2 c0 c1, .update b, .digest]) s := by
  have hkeyed := exec_update_of_open b hsafe hopen
  have hsafe' : (succeed (appendKeyByte s b)).fatal = false := by simpa using hsafe
  rw [runCommands_encodeAll_cons rfl hkeyed]
  obtain hsetsalt | hsetsalt := setsalt_two_cases c0 c1
  · have hkeyed' := exec_update_of_open (s := succeed (storeSalt s c0 c1)) b hsafe hopen
    have hcomm : appendKeyByte (succeed (storeSalt s c0 c1)) b = succeed (storeSalt (appendKeyByte s b) c0 c1) := by
      rw [← appendKeyByte_storeSalt]
      exact appendKeyByte_raise .ok _ b
    rw [runCommands_encodeAll_cons rfl (hsetsalt _ hsafe'), runCommands_encodeAll_cons rfl (hsetsalt s hsafe),
      runCommands_encodeAll_cons rfl hkeyed', hcomm]
    rfl
  · have hkeyed' := exec_update_of_open (s := raise .invalidSalt s) b hsafe hopen
    rw [runCommands_encodeAll_cons rfl (hsetsalt _ hsafe'), runCommands_encodeAll_cons rfl (hsetsalt s hsafe),
      runCommands_encodeAll_cons rfl hkeyed', appendKeyByte_raise, runCommands_digest_raise,
      runCommands_digest_succeed, runCommands_digest_succeed, runCommands_digest_raise]

/-! ## The commands that write no more than DIGEST overwrites -/

/-- The commands of R391 that a DIGEST may follow with its result unchanged. -/
def HarmlessBeforeDigest (i : Instr) : Prop :=
  i = .init ∨ i = .saltperm ∨ i = .ksched ∨ acceptedWhileFatal i = true

theorem HarmlessBeforeDigest.wellFormed {i : Instr} (hi : HarmlessBeforeDigest i) : i.wellFormed = true := by
  obtain rfl | rfl | rfl | haccepted := hi
  · rfl
  · rfl
  · rfl
  · cases i with
    | setsalt => simp [acceptedWhileFatal] at haccepted
    | _ => rfl

/-- With a stored salt and FATAL = 0 each of them completes. -/
theorem HarmlessBeforeDigest.completes {i : Instr} {s : State} (hi : HarmlessBeforeDigest i) (hsafe : s.fatal = false)
    (hv : s.saltv = true) : ∃ u, exec i s = .next (succeed u) ∧ Completes s i u := by
  obtain rfl | rfl | rfl | haccepted := hi
  · exact ⟨_, exec_init_of_safe hsafe, .init⟩
  · exact ⟨_, exec_saltperm_of_salted hsafe hv, .saltperm hv⟩
  · exact ⟨_, exec_ksched_of_safe hsafe, .ksched⟩
  · cases i with
    | nop => exact ⟨_, rfl, .nop⟩
    | rdbank bank index => exact ⟨_, rfl, .rdbank bank index⟩
    | rdks index => exact ⟨_, rfl, .rdks index⟩
    | rdreg sel => exact ⟨_, rfl, .rdreg sel⟩
    | _ => simp [acceptedWhileFatal] at haccepted

/-- They write KS, the banks, MASK and RDATA at most. -/
theorem Completes.eq_of_harmless {i : Instr} {s u : State} (hc : Completes s i u) (hi : HarmlessBeforeDigest i) :
    ∃ mask bank ks rdata, u = { s with mask, bank, ks, rdata } := by
  cases hc with
  | nop | init | ksched | rdbank | rdks | rdreg => exact ⟨_, _, _, _, rfl⟩
  | saltperm => exact ⟨(applySalt s).mask, (applySalt s).bank, s.ks, s.rdata, by apply state_ext <;> simp⟩
  | _ => simp [HarmlessBeforeDigest, acceptedWhileFatal] at hi

/-! ## What DIGEST keeps of the state before it -/

section
variable {s : State} (hbanks : BanksMatchMask s) (hcells : CellsCanonical s)
include hbanks hcells

theorem prepareDigest_bank_eq_nil : (prepareDigest s).bank = [] :=
  bank_eq_nil_of_banksMatchMask (banksMatchMask_prepareDigest hbanks) (memoryWf_prepareDigest hcells)

/-- The FeistelEngine finds KBUF's schedule and BASE swapped by the salt's mask. -/
theorem runFeistel_prepareDigest_congr {t : State} (hbanks' : BanksMatchMask t) (hcells' : CellsCanonical t)
    (hkbuf : t.kbuf = s.kbuf) (hsalt : t.salt = s.salt) :
    runFeistel (prepareDigest t) = runFeistel (prepareDigest s) := by
  have hbank : (prepareDigest t).bank = (prepareDigest s).bank := by
    rw [prepareDigest_bank_eq_nil hbanks hcells, prepareDigest_bank_eq_nil hbanks' hcells']
  have hmask : (prepareDigest t).mask = (prepareDigest s).mask := by
    rw [prepareDigest_mask, prepareDigest_mask, hsalt]
  have hks : (prepareDigest t).ks = (prepareDigest s).ks := by
    rw [prepareDigest_ks, prepareDigest_ks, hkbuf]
  exact runFeistel_congr (bankEntry_congr hbank hmask) hks

/-- Nothing it leaves rests on the KS, MASK, banks or ERR before it. -/
theorem digested_of_banksMatchMask (lr : DWord × DWord) :
    digested s lr = { s with
      ks := scheduleOf s.kbuf, bank := [], mask := saltMask s.salt[0] s.salt[1], l := lr.1, r := lr.2,
      out := outputString s.salt (finalBlock (saltMask s.salt[0] s.salt[1]) lr.1 lr.2), outv := true, fin := true,
      err := 0 } := by
  have hbank := prepareDigest_bank_eq_nil hbanks hcells
  apply state_ext <;> simp [digested, prepareDigest_ks, prepareDigest_mask, hbank]

end

theorem runCommands_digest_of_some {s : State} {lr : DWord × DWord} (hsafe : s.fatal = false) (hopen : s.fin = false)
    (hv : s.saltv = true) (hrun : runFeistel (prepareDigest s) = some lr) :
    runCommands (encodeAll [.digest]) s = digested s lr :=
  runCommands_encodeAll_cons rfl (exec_digest_of_some hsafe hopen hv hrun)

theorem runCommands_harmless_digest {s : State} {i : Instr} (hsafe : s.fatal = false) (hopen : s.fin = false)
    (hcells : CellsCanonical s) (hbanks : BanksMatchMask s) (hv : s.saltv = true) (hi : HarmlessBeforeDigest i) :
    { runCommands (encodeAll [i, .digest]) s with rdata := s.rdata } =
      { runCommands (encodeAll [.digest]) s with rdata := s.rdata } := by
  obtain ⟨u, hexec, hc⟩ := hi.completes hsafe hv
  have hbanks' := hc.banksMatchMask hbanks
  have hcells' := hc.cellsCanonical hcells
  obtain ⟨mask, bank, ks, rdata, rfl⟩ := hc.eq_of_harmless hi
  obtain ⟨lr, hrun⟩ := runFeistel_prepareDigest_completes hbanks
  have hrun' := (runFeistel_prepareDigest_congr hbanks hcells hbanks' hcells' rfl rfl).trans hrun
  have hdigest := runCommands_digest_of_some hsafe hopen hv hrun
  have hdigest' := runCommands_digest_of_some (s := { s with mask, bank, ks, rdata }) hsafe hopen hv hrun'
  rw [runCommands_encodeAll_cons hi.wellFormed hexec, runCommands_digest_succeed, hdigest, hdigest',
    digested_of_banksMatchMask hbanks hcells, digested_of_banksMatchMask hbanks' hcells']

/-- Settles O51. -/
theorem harmlessOrders : Obligations.HarmlessOrders := fun _ hsafe hopen hcells hbanks =>
  ⟨fun hv _ hi => runCommands_harmless_digest hsafe hopen hcells hbanks hv hi,
    runCommands_update_setsalt_comm hsafe hopen⟩

end Sys2Proof.Machine
end
